-- ==== Sys2Proof/Word.lean ====
section
/-! DEFINITION. The two word types of the KC3 cipher core (spec/00_scope.md R11): a byte is 8 bits, a word is 32 bits,
every value is unsigned. -/

namespace Sys2Proof

/-- A byte: a field element, or one byte of a window (R11, R140). -/
abbrev Byte := BitVec 8

/-- A 32-bit word: a command word, a scalar register or a bus datum (R11, R22). -/
abbrev Word := BitVec 32

end Sys2Proof
end

