-- ==== Sys2Proof/Syntax.lean ====
section
/-! DEFINITION. The thirteen commands of KC3-CMD version 1 (spec/30_encoding.md R94), one constructor per row of
spec/opcode_table.json. -/

namespace Sys2Proof

/-- A command with its operands (R91, R93). A, B and X are field elements; N and IDX are a count and a table index, whose
legal ranges are checked when the command runs, not by the decoder (R93, R124). -/
inductive Instr where
  /-- NOP (R126). -/
  | nop
  /-- GFADD a, b: field addition (R145). -/
  | gfadd (a b : Byte)
  /-- GFMUL a, b: field multiplication (R146). -/
  | gfmul (a b : Byte)
  /-- GFDIV a, b: field division (R147). -/
  | gfdiv (a b : Byte)
  /-- GFLOG a: LOG table lookup (R148). -/
  | gflog (a : Byte)
  /-- GFEXP idx: EXP table lookup (R149). -/
  | gfexp (idx : Nat)
  /-- INTERP n: interpolate the nodes in XS and YS into COEF (R163). -/
  | interp (n : Nat)
  /-- EVAL n, x: evaluate the polynomial in COEF (R164). -/
  | eval (n : Nat) (x : Byte)
  /-- SHUFFLE n: keyed Fisher–Yates shuffle of SEQ (R182). -/
  | shuffle (n : Nat)
  /-- ROUNDF: one evaluation of the round function (R192). -/
  | roundf
  /-- KEYSCHED: one key-schedule step (R202). -/
  | keysched
  /-- ENCBLK, with INC (R212). -/
  | encblk (inc : Bool)
  /-- DECBLK, with INC (R213). -/
  | decblk (inc : Bool)
  deriving DecidableEq, Repr

end Sys2Proof
end

