-- ==== Sys2Proof/WellFormed.lean ====
section
/-! DEFINITION. Which commands a command word can hold: every operand fits its field (spec/30_encoding.md R91, R99: "An
assembler must refuse an operand that does not fit its field"). The byte operands and INC fit by their types. -/

namespace Sys2Proof

/-- N fits its 8-bit field, IDX its 9-bit field (R91, R99). -/
def Instr.wellFormed : Instr → Bool
  | .nop => true
  | .gfadd _ _ => true
  | .gfmul _ _ => true
  | .gfdiv _ _ => true
  | .gflog _ => true
  | .gfexp idx => decide (idx ≤ 511)
  | .interp n => decide (n ≤ 255)
  | .eval n _ => decide (n ≤ 255)
  | .shuffle n => decide (n ≤ 255)
  | .roundf => true
  | .keysched => true
  | .encblk _ => true
  | .decblk _ => true

end Sys2Proof
end

