-- ==== Sys2Proof/Decode.lean ====
section
/-! DEFINITION. Decoding of a 32-bit command word (spec/30_encoding.md R90–R98) and the encoder beside it. -/

namespace Sys2Proof

/-- Why a word selects no command (R95). -/
inductive DecodeError where
  /-- OP is none of the thirteen assigned values (R96). -/
  | illegalOp
  /-- OP is assigned and a reserved bit of its format is 1 (R97). -/
  | reservedBits
  deriving DecidableEq, Repr

/-- OP, bits [7:0] (R91). -/
def fieldOp (w : Word) : Byte := w.extractLsb' 0 8

/-- A, bits [15:8] (R91). -/
def fieldA (w : Word) : Byte := w.extractLsb' 8 8

/-- B, bits [23:16] (R91). -/
def fieldB (w : Word) : Byte := w.extractLsb' 16 8

/-- N, bits [15:8], an unsigned count (R91, R93). -/
def fieldN (w : Word) : Nat := (w.extractLsb' 8 8).toNat

/-- X, bits [23:16] (R91). -/
def fieldX (w : Word) : Byte := w.extractLsb' 16 8

/-- IDX, bits [16:8], an unsigned index (R91, R93). -/
def fieldIdx (w : Word) : Nat := (w.extractLsb' 8 9).toNat

/-- INC, bit 8 (R91). -/
def fieldInc (w : Word) : Bool := w.getLsbD 8

/-- The rows of R94: match, mask, and the command with the fields of R93. -/
def opcodeTable : List (Word × Word × (Word → Instr)) :=
  [ (0x00000000#32, 0xFFFFFFFF#32, fun _ => .nop),
    (0x00000001#32, 0xFF0000FF#32, fun w => .gfadd (fieldA w) (fieldB w)),
    (0x00000002#32, 0xFF0000FF#32, fun w => .gfmul (fieldA w) (fieldB w)),
    (0x00000003#32, 0xFF0000FF#32, fun w => .gfdiv (fieldA w) (fieldB w)),
    (0x00000004#32, 0xFFFF00FF#32, fun w => .gflog (fieldA w)),
    (0x00000005#32, 0xFFFE00FF#32, fun w => .gfexp (fieldIdx w)),
    (0x00000010#32, 0xFFFF00FF#32, fun w => .interp (fieldN w)),
    (0x00000011#32, 0xFF0000FF#32, fun w => .eval (fieldN w) (fieldX w)),
    (0x00000018#32, 0xFFFF00FF#32, fun w => .shuffle (fieldN w)),
    (0x00000020#32, 0xFFFFFFFF#32, fun _ => .roundf),
    (0x00000028#32, 0xFFFFFFFF#32, fun _ => .keysched),
    (0x00000030#32, 0xFFFFFEFF#32, fun w => .encblk (fieldInc w)),
    (0x00000031#32, 0xFFFFFEFF#32, fun w => .decblk (fieldInc w)) ]

/-- Decoding, total on every word (R95): the row of the word's OP, then its reserved bits. -/
def decode (w : Word) : Except DecodeError Instr :=
  match opcodeTable.find? (fun row => fieldOp row.1 == fieldOp w) with
  | none => .error .illegalOp
  | some (matchBits, mask, build) =>
    if w &&& mask = matchBits then .ok (build w) else .error .reservedBits

/-- The instruction the decoder reads from a table word of `nbits` bits. The table numbers the bits of the one 32-bit
command word as the word does, so no bytes change place; bits at `nbits` and above are 0. -/
def decodeTableWord (nbits w : Nat) : Option Instr :=
  (decode (BitVec.ofNat 32 (w % 2 ^ nbits))).toOption

/-- A field's bits in a command word, its bit 0 at bit `lo` (R91). -/
def place {n : Nat} (field : BitVec n) (lo : Nat) : Word := field.setWidth 32 <<< lo

/-- The command word of a well-formed command (R91, R92, R99): OP in bits [7:0], each field at its place, every other bit
0. -/
def encode : Instr → Word
  | .nop => 0x00#32
  | .gfadd a b => place b 16 ||| place a 8 ||| 0x01#32
  | .gfmul a b => place b 16 ||| place a 8 ||| 0x02#32
  | .gfdiv a b => place b 16 ||| place a 8 ||| 0x03#32
  | .gflog a => place a 8 ||| 0x04#32
  | .gfexp idx => place (BitVec.ofNat 9 idx) 8 ||| 0x05#32
  | .interp n => place (BitVec.ofNat 8 n) 8 ||| 0x10#32
  | .eval n x => place x 16 ||| place (BitVec.ofNat 8 n) 8 ||| 0x11#32
  | .shuffle n => place (BitVec.ofNat 8 n) 8 ||| 0x18#32
  | .roundf => 0x20#32
  | .keysched => 0x28#32
  | .encblk inc => place (BitVec.ofBool inc) 8 ||| 0x30#32
  | .decblk inc => place (BitVec.ofBool inc) 8 ||| 0x31#32

end Sys2Proof
end

