-- ==== Sys2Proof/Config.lean ====
section
/-! DEFINITION. What is fixed for the machine (spec/00_scope.md R9, R10) and the values the spec leaves open. -/

namespace Sys2Proof.Config

/-- ID, every bit hardwired: ASCII "KC3" and version 1 (R3, R24). -/
def idValue : Word := 0x4B433301#32

/-- `GF_POLY_LOW`: the reduction polynomial is x^8 + this byte, 0x11D (R10, D2; log 8). -/
def gfPolyLow : Byte := 0x1D#8

/-- `MAX_N`, the largest N of INTERP, EVAL and SHUFFLE (R10, R124). -/
def maxN : Nat := 64

/-- Size of the register block in bytes (R10, R60). -/
def blockSize : Nat := 1024

/-- `KC3_BASE`, the platform's base address of the register block: OPEN (R10, D18), so no value is given (log 7). -/
opaque kc3Base : Nat

/-- The free bytes: the draws of a read while BUSY (20_memory.md R73) and of INTERP on equal x values
(42_interpolation.md R163). The argument is the machine's draw counter; no value is given (log 2). -/
opaque freeByte : Nat → Byte

end Sys2Proof.Config
end

