-- ==== Sys2Proof/Machine/State.lean ====
section
/-! DEFINITION. The machine's state as plain data: every piece of state of spec/10_state.md, and the host's side of the bus
(00_scope.md R14, R17) as lists the step reads. -/

namespace Sys2Proof.Machine

/-- The error codes ERRCODE can hold (60_exceptions.md R231). Codes 0x06–0xFF are never produced, so a state that holds one
cannot be written down (93_implementation_defined.md item 8; log 10). -/
inductive ErrCode where
  /-- 0x00 NONE. -/
  | noError
  /-- 0x01 ILLEGAL_OP. -/
  | illegalOp
  /-- 0x02 RESERVED_BITS. -/
  | reservedBits
  /-- 0x03 BAD_COUNT. -/
  | badCount
  /-- 0x04 LOG_ZERO. -/
  | logZero
  /-- 0x05 EXP_RANGE. -/
  | expRange
  deriving DecidableEq, Repr

/-- The width of a bus access: 1, 2 or 4 bytes (R14, 20_memory.md R68). -/
inductive Width where
  | byte
  | half
  | word
  deriving DecidableEq, Repr

/-- The scalar registers (10_state.md R22). -/
inductive ScalarReg where
  | id
  | ctrl
  | status
  | errcode
  | cmd
  | result
  | iv
  deriving DecidableEq, Repr

/-- The byte windows (10_state.md R31–R37). -/
inductive Window where
  | k1
  | k2
  | block
  | xs
  | ys
  | coef
  | seq
  | seed
  | fin
  | rk
  | fout
  | ksout
  deriving DecidableEq, Repr

/-- What an offset of the register map holds (20_memory.md R61). -/
inductive Target where
  | scalar (r : ScalarReg)
  | window (w : Window)
  deriving DecidableEq, Repr

/-- Why an access is refused with `raise BusError` (20_memory.md R67–R70); the bus gives one response for all three. -/
inductive BusError where
  /-- A byte of the access lies at a reserved offset or outside the block (R67). -/
  | reserved
  /-- Not naturally aligned (R69). -/
  | misaligned
  /-- A 1- or 2-byte access to a scalar register (R68). -/
  | narrow
  deriving DecidableEq, Repr

/-- One thing the host does next (30_encoding.md R101); offsets count from `KC3_BASE` (R14). -/
inductive HostOp where
  /-- `BusRead(off, n)`. -/
  | read (off : Nat) (width : Width)
  /-- `BusWrite(off, n, value)`: the low n bytes of `value`. -/
  | write (off : Nat) (width : Width) (value : Word)
  /-- `wait`: read STATUS until BUSY = 0. -/
  | wait
  deriving DecidableEq, Repr

/-- Whose turn it is (00_scope.md R17; the reset input, 70_reset_and_hazards.md R260). -/
inductive Turn where
  | engine
  | host
  | reset
  deriving DecidableEq, Repr

/-- What the bus answers an access (20_memory.md R70, R74). -/
inductive BusResponse where
  /-- A read's value, zero-extended to a word (log 12). -/
  | data (value : Word)
  /-- A write the bus took, performed, ignored or discarded. -/
  | ack
  /-- The error response of `raise BusError`: the fault of the host agent that made the access (R70; log 4). -/
  | error
  deriving DecidableEq, Repr

/-- The bytes of the windows, by offset from `KC3_BASE` (20_memory.md R60–R62): offsets strictly rising, no byte listed that
equals what an unlisted offset reads as. -/
abbrev Memory := List Host.Cell

/-- The state (INVENTORY.md, "State"). -/
structure State where
  /-- CTRL.IRQ_EN (R25). -/
  irqEn : Bool
  /-- STATUS.BUSY (R26). -/
  busy : Bool
  /-- STATUS.READY (R26). -/
  ready : Bool
  /-- STATUS.DONE (R26). -/
  done : Bool
  /-- STATUS.OVR (R26). -/
  ovr : Bool
  /-- ERRCODE[7:0] (R27); STATUS.ERR is computed from it (R26). -/
  errcode : ErrCode
  /-- CMD, the last accepted command word (R28). -/
  cmd : Word
  /-- PENDING, the latch of the accepted command (R40). -/
  pending : Word
  /-- RESULT[7:0] (R29). -/
  result : Byte
  /-- IV, the block counter (R30). -/
  iv : Word
  /-- The windows K1 … KSOUT (R31–R37). -/
  mem : Memory
  /-- The model's own: what the host has still to do (R14, R101; log 3). -/
  host : List HostOp
  /-- The model's own: who moves next (R76, R125; log 3). -/
  turns : List Turn
  /-- The model's own: what the bus answered, oldest first (70_reset_and_hazards.md R275; log 3). -/
  responses : List BusResponse
  /-- The model's own: how many free bytes have been drawn (R73, R163; log 2). -/
  draws : Nat
  deriving DecidableEq, Repr

/-- Reasons a step stops with a fault: none. "Nothing in the core is `stuck`: every command completes and every access gets
an answer" (93_implementation_defined.md): command errors and bus errors are next states. -/
inductive Fault where
  deriving DecidableEq, Repr

/-- Reasons a step has no meaning. -/
inductive Refusal where
  /-- Raised by a refused arm of `exec` for an instruction that has no meaning yet; safe. No arm raises it. -/
  | notModelled (mnemonic : String)
  deriving DecidableEq, Repr

/-- The state right after reset (70_reset_and_hazards.md R260): BUSY = 1, everything else 0, every window byte 0x00. The
host's lists are empty and no free byte has been drawn (log 2, log 3). -/
def State.reset : State where
  irqEn := false
  busy := true
  ready := false
  done := false
  ovr := false
  errcode := .noError
  cmd := 0x00000000#32
  pending := 0x00000000#32
  result := 0x00#8
  iv := 0x00000000#32
  mem := []
  host := []
  turns := []
  responses := []
  draws := 0

end Sys2Proof.Machine
end

