-- ==== Sys2Proof/Machine/Ops.lean ====
section
/-! DEFINITION. The named operations over memory and registers, acceptance and completion of a command, initialisation and
reset. -/

namespace Sys2Proof.Machine

/-! ### Window bytes -/

/-- What an unlisted window byte reads as: 0x00, its value at reset (10_state.md R38). -/
def Memory.unlisted : Byte := 0x00#8

/-- The byte at an offset. -/
def Memory.read : Memory → Nat → Byte
  | [], _ => Memory.unlisted
  | (k, v) :: m, a => if a = k then v else Memory.read m a

/-- Write one byte, keeping the canonical form. -/
def Memory.write : Memory → Nat → Byte → Memory
  | [], a, b => if b = Memory.unlisted then [] else [(a, b)]
  | (k, v) :: m, a, b =>
    if a < k then (if b = Memory.unlisted then (k, v) :: m else (a, b) :: (k, v) :: m)
    else if a = k then (if b = Memory.unlisted then m else (a, b) :: m)
    else (k, v) :: Memory.write m a b

/-- The canonical form: offsets strictly rising, no listed byte equal to `Memory.unlisted`. -/
def Memory.wf : Memory → Bool
  | [] => true
  | (k, v) :: m => decide (v ≠ Memory.unlisted) && m.all (fun c => decide (k < c.1)) && Memory.wf m

/-- n bytes from offset a upward. -/
def Memory.readBytes (m : Memory) (a n : Nat) : List Byte :=
  (List.range n).map fun i => Memory.read m (a + i)

/-- Write bytes from offset a upward. -/
def Memory.writeBytes : Memory → Nat → List Byte → Memory
  | m, _, [] => m
  | m, a, b :: bs => Memory.writeBytes (Memory.write m a b) (a + 1) bs

/-! ### Byte order -/

/-- Byte k of a word, bits [8k+7:8k] (20_memory.md R65). -/
def wordByte (v : Word) (k : Nat) : Byte := v.extractLsb' (8 * k) 8

/-- The low n bytes of a word, least significant first (R65). -/
def wordBytes (v : Word) (n : Nat) : List Byte := (List.range n).map (wordByte v)

/-- The word of at most four bytes, the first in bits [7:0], zero-extended (R65). -/
def littleEndian : List Byte → Word
  | [] => 0#32
  | b :: bs => (littleEndian bs <<< 8) ||| b.setWidth 32

/-! ### Windows -/

/-- The first offset of a window (20_memory.md R61). -/
def Window.base : Window → Nat
  | .k1 => 0x040
  | .k2 => 0x060
  | .block => 0x0C0
  | .xs => 0x100
  | .ys => 0x140
  | .coef => 0x180
  | .seq => 0x1C0
  | .seed => 0x200
  | .fin => 0x240
  | .rk => 0x260
  | .fout => 0x280
  | .ksout => 0x2A0

/-- The size of a window in bytes (R61). -/
def Window.size : Window → Nat
  | .k1 => 32
  | .k2 => 64
  | .block => 64
  | .xs => 64
  | .ys => 64
  | .coef => 64
  | .seq => 64
  | .seed => 64
  | .fin => 32
  | .rk => 32
  | .fout => 32
  | .ksout => 32

/-- Bytes 0..n-1 of a window, byte i at offset W + i (R62). -/
def State.bytes (s : State) (w : Window) (n : Nat) : List Byte := Memory.readBytes s.mem w.base n

/-- A whole window. -/
def State.buffer (s : State) (w : Window) : List Byte := s.bytes w w.size

/-- Store bytes at the start of a window. -/
def State.store (s : State) (w : Window) (bs : List Byte) : State :=
  { s with mem := Memory.writeBytes s.mem w.base bs }

/-! ### Registers -/

/-- RESULT <- zext_32(v) (10_state.md R29). -/
def State.setResult (s : State) (v : Byte) : State := { s with result := v }

/-- IV <- add32(IV, 1) when INC = 1, after the block (46_block_cipher.md R215). -/
def State.bumpIv (s : State) (inc : Bool) : State := if inc then { s with iv := s.iv + 1#32 } else s

/-! ### Free values -/

/-- The next n free bytes, and the state after drawing them (R73, R163; log 2). -/
def drawBytes (n : Nat) (s : State) : List Byte × State :=
  ((List.range n).map fun k => Config.freeByte (s.draws + k), { s with draws := s.draws + n })

/-! ### The life of a command -/

/-- Acceptance of a command word while BUSY = 0 (40_command_cycle.md R121); checks nothing about the word. -/
def accept (w : Word) (s : State) : State :=
  { s with cmd := w, pending := w, busy := true, done := false, errcode := .noError }

/-- The end of a completion step (R122): ERRCODE <- code, BUSY <- 0, DONE <- 1. -/
def finish (code : ErrCode) (s : State) : State :=
  { s with errcode := code, busy := false, done := true }

/-- Completion without error (R122). -/
def complete (s : State) : State := finish .noError s

/-- `raise CmdError(code)`, the core's only exception entry (60_exceptions.md R232, R238): nothing but ERRCODE, BUSY and
DONE is written; the command word stays in CMD. -/
def raiseCmdError (code : ErrCode) (s : State) : State := finish code s

/-- A command with one operand check (R124): the error the check gives, or the effect and then completion. -/
def checked (code : ErrCode) (effect : State → State) (s : State) : State :=
  match code with
  | .noError => complete (effect s)
  | code => raiseCmdError code s

/-- A discarded write: OVR <- 1 and nothing else (20_memory.md R72, 60_exceptions.md R236). -/
def discardWrite (s : State) : State := { s with ovr := true }

/-! ### Initialisation and reset -/

/-- The initialisation step (70_reset_and_hazards.md R262): BUSY <- 0, READY <- 1. The tables it builds are the constants of
Machine/Field.lean (log 1). -/
def initialise (s : State) : State := { s with busy := false, ready := true }

/-- The reset input (R260): every register and window takes its reset value. What the host still does, the turns, what the
bus answered and the count of free bytes are not the core's and stay (log 16). -/
def resetCore (s : State) : State :=
  { State.reset with host := s.host, turns := s.turns, responses := s.responses, draws := s.draws }

end Sys2Proof.Machine
end

