-- ==== Sys2Proof/Machine/Operands.lean ====
section
/-! DEFINITION. The operand checks of a command, made after decode and before any write (spec/40_command_cycle.md R124). -/

namespace Sys2Proof.Machine

/-- INTERP, EVAL, SHUFFLE: 1 ≤ N ≤ 64, else BAD_COUNT (R124). -/
def countCheck (n : Nat) : ErrCode := if 1 ≤ n ∧ n ≤ Config.maxN then .noError else .badCount

/-- GFLOG: A ≠ 0, else LOG_ZERO (R124). -/
def logCheck (a : Byte) : ErrCode := if a ≠ 0x00#8 then .noError else .logZero

/-- GFEXP: IDX ≤ 509, else EXP_RANGE (R124). -/
def expCheck (idx : Nat) : ErrCode := if idx ≤ 509 then .noError else .expRange

/-- The error code of a word that does not decode (30_encoding.md R95). -/
def ErrCode.ofDecodeError : DecodeError → ErrCode
  | .illegalOp => .illegalOp
  | .reservedBits => .reservedBits

end Sys2Proof.Machine
end

