-- ==== Sys2Proof/Machine/Field.lean ====
section
/-! DEFINITION. The GF(256) field arithmetic engine and its commands (spec/41_field.md). LOG, EXP and PROD are constants, as
10_state.md R39 allows (log 1). -/

namespace Sys2Proof.Machine

/-- The product of v and x under the reduction polynomial x^8 + poly (R141). -/
def xtimeOf (poly v : Byte) : Byte := (v <<< 1) ^^^ (if v.getLsbD 7 then poly else 0x00#8)

/-- v, v·x, v·x², …: n entries (the loop of R142). -/
def powersOf (poly : Byte) : Nat → Byte → List Byte
  | 0, _ => []
  | n + 1, v => v :: powersOf poly n (xtimeOf poly v)

/-- A polynomial byte this hardware admits: the 255 EXP entries are distinct and nonzero (00_scope.md R10; log 8). -/
def polyAdmitted (poly : Byte) : Bool :=
  decide (powersOf poly 255 0x01#8).Nodup && (powersOf poly 255 0x01#8).all (fun v => decide (v ≠ 0x00#8))

/-- `xtime` under P = 0x11D (R141): multiplication by `GF_ALPHA` = 0x02. -/
def xtime (v : Byte) : Byte := xtimeOf Config.gfPolyLow v

/-- EXP[0..254], the powers of `GF_ALPHA` (R142). -/
def powers : List Byte := powersOf Config.gfPolyLow 255 0x01#8

/-- A table of bytes as one number: entry (i, v) puts v into bits [8i+7:8i]; an entry not listed is 0. -/
def tableImage : List (Nat × Nat) → Nat
  | [] => 0
  | (i, v) :: entries => (v <<< (8 * i)) ||| tableImage entries

/-- Entry i of a table. -/
def entryAt (image i : Nat) : Byte := BitVec.ofNat 8 (image >>> (8 * i))

/-- EXP, 510 entries: the loop's EXP[i] <- v and EXP[i + 255] <- v (R142). -/
def expTable : Nat := tableImage ((powers ++ powers).zipIdx.map fun e => (e.2, e.1.toNat))

/-- LOG, 256 entries: the loop's LOG[v] <- i, and LOG[0] <- 0 (R142). -/
def logTable : Nat := tableImage (powers.zipIdx.map fun e => (e.1.toNat, e.2))

/-- EXP[i]; read only for i ≤ 509 (R142). -/
def expAt (i : Nat) : Byte := entryAt expTable i

/-- LOG[v] (R142). -/
def logAt (v : Byte) : Byte := entryAt logTable v.toNat

/-- PROD[a][b] (R142), which is `gmul(a, b)` (R143): 0 if a or b is 0, else EXP[LOG[a] + LOG[b]]. -/
def gmul (a b : Byte) : Byte :=
  if a = 0x00#8 ∨ b = 0x00#8 then 0x00#8 else expAt ((logAt a).toNat + (logAt b).toNat)

/-- `gdiv(a, b)` (R144): 0 if a or b is 0, else EXP[(LOG[a] − LOG[b]) mod 255] with the non-negative remainder. -/
def gdiv (a b : Byte) : Byte :=
  if a = 0x00#8 ∨ b = 0x00#8 then 0x00#8
  else expAt (((logAt a).toNat + 255 - (logAt b).toNat) % 255)

/-! ### Commands -/

/-- GFADD (R145): RESULT <- a xor b. -/
def execGfadd (a b : Byte) (s : State) : Host.Outcome State Fault Refusal :=
  .next (complete (s.setResult (a ^^^ b)))

/-- GFMUL (R146): RESULT <- gmul(a, b). -/
def execGfmul (a b : Byte) (s : State) : Host.Outcome State Fault Refusal :=
  .next (complete (s.setResult (gmul a b)))

/-- GFDIV (R147): RESULT <- gdiv(a, b); division by zero is not an error. -/
def execGfdiv (a b : Byte) (s : State) : Host.Outcome State Fault Refusal :=
  .next (complete (s.setResult (gdiv a b)))

/-- GFLOG (R148): RESULT <- LOG[a]; LOG_ZERO for a = 0. -/
def execGflog (a : Byte) (s : State) : Host.Outcome State Fault Refusal :=
  .next (checked (logCheck a) (fun s => s.setResult (logAt a)) s)

/-- GFEXP (R149): RESULT <- EXP[idx]; EXP_RANGE for idx ≥ 510. -/
def execGfexp (idx : Nat) (s : State) : Host.Outcome State Fault Refusal :=
  .next (checked (expCheck idx) (fun s => s.setResult (expAt idx)) s)

end Sys2Proof.Machine
end

