-- ==== Sys2Proof/Machine/Interpolation.lean ====
section
/-! DEFINITION. Lagrange interpolation and Horner evaluation (spec/42_interpolation.md). A polynomial is the list of its
coefficients, ascending: entry k is the coefficient of z^k (R160). -/

namespace Sys2Proof.Machine

/-- `Eval(c, n, x)` (R161): Horner's method from the top coefficient down, y <- gmul(y, x) xor c[k]. -/
def evalPoly (c : List Byte) (x : Byte) : Byte := c.foldr (fun ck y => gmul y x ^^^ ck) 0x00#8

/-- m(z) · (z + x), one step of R162's product loop. -/
def mulLinear (m : List Byte) (x : Byte) : List Byte :=
  List.zipWith (· ^^^ ·) (0x00#8 :: m) (m.map (fun mk => gmul mk x) ++ [0x00#8])

/-- M(z), the monic polynomial whose roots are the xs (R162). -/
def rootProduct (xs : List Byte) : List Byte := xs.foldl mulLinear [0x01#8]

/-- The synthetic division loop of R162 on m[1..n]: q[k-1] = m[k] xor gmul(q[k], x), with q[n] = 0. -/
def divideTail (x : Byte) : List Byte → List Byte
  | [] => []
  | mk :: ms =>
    let q := divideTail x ms
    (mk ^^^ gmul (q.headD 0x00#8) x) :: q

/-- q(z) = m(z) / (z + x) for a root x of m (R162). -/
def quotient (m : List Byte) (x : Byte) : List Byte := divideTail x m.tail

/-- The contribution of one node: c[k] <- c[k] xor gmul(s, q[k]) with s = gdiv(y, q(x)) (R162). -/
def addNode (m : List Byte) (c : List Byte) (node : Byte × Byte) : List Byte :=
  let q := quotient m node.1
  let scale := gdiv node.2 (evalPoly q node.1)
  List.zipWith (fun ck qk => ck ^^^ gmul scale qk) c q

/-- `Interp(xs, ys, n)` by the reference algorithm of R162 (log 9); n is the length of xs. -/
def interpolate (xs ys : List Byte) : List Byte :=
  (xs.zip ys).foldl (addNode (rootProduct xs)) (List.replicate xs.length 0x00#8)

/-! ### Commands -/

/-- INTERP's effect (R163): the coefficients of the nodes, or one free byte per coefficient when two x values are equal;
COEF[n..63], XS and YS unchanged. -/
def interpEffect (n : Nat) (s : State) : State :=
  if (s.bytes .xs n).Nodup then s.store .coef (interpolate (s.bytes .xs n) (s.bytes .ys n))
  else (drawBytes n s).2.store .coef (drawBytes n s).1

/-- INTERP (R163); BAD_COUNT unless 1 ≤ n ≤ 64. -/
def execInterp (n : Nat) (s : State) : Host.Outcome State Fault Refusal :=
  .next (checked (countCheck n) (interpEffect n) s)

/-- EVAL (R164): RESULT <- Eval(COEF[0..n-1], n, x); BAD_COUNT unless 1 ≤ n ≤ 64. -/
def execEval (n : Nat) (x : Byte) (s : State) : Host.Outcome State Fault Refusal :=
  .next (checked (countCheck n) (fun s => s.setResult (evalPoly (s.bytes .coef n) x)) s)

end Sys2Proof.Machine
end

