-- ==== Sys2Proof/Machine/Permutation.lean ====
section
/-! DEFINITION. The Fisher–Yates keyed permutation engine (spec/43_permutation.md). -/

namespace Sys2Proof.Machine

/-- swap(seq[i], seq[j]) (R180). -/
def swapAt (seq : List Byte) (i j : Nat) : List Byte :=
  (seq.set i (seq.getD j 0x00#8)).set j (seq.getD i 0x00#8)

/-- The steps i = top, top − 1, …, 1 of R180: swap i with j = seed[i] mod (i + 1). -/
def shuffleFrom (seed : List Byte) : Nat → List Byte → List Byte
  | 0, seq => seq
  | i + 1, seq => shuffleFrom seed i (swapAt seq (i + 1) ((seed.getD (i + 1) 0x00#8).toNat % (i + 2)))

/-- `Shuffle(seed, seq, n)` (R180). -/
def shuffle (seed seq : List Byte) (n : Nat) : List Byte := shuffleFrom seed (n - 1) seq

/-- The identity sequence 0, 1, …, n − 1 (R183). -/
def identitySeq (n : Nat) : List Byte := (List.range n).map (BitVec.ofNat 8)

/-! ### Command -/

/-- SHUFFLE (R182): SEQ[0..n-1] <- Shuffle(SEED[0..n-1], SEQ[0..n-1], n); BAD_COUNT unless 1 ≤ n ≤ 64. -/
def execShuffle (n : Nat) (s : State) : Host.Outcome State Fault Refusal :=
  .next (checked (countCheck n) (fun s => s.store .seq (shuffle (s.bytes .seed n) (s.bytes .seq n) n)) s)

end Sys2Proof.Machine
end

