-- ==== Sys2Proof/Machine/RoundFunction.lean ====
section
/-! DEFINITION. The Feistel round function (spec/44_round_function.md). -/

namespace Sys2Proof.Machine

/-- ys[i] <- add8(in[i], i) for every index (R190, R200): addition mod 256. -/
def addIndex (bs : List Byte) : List Byte := bs.mapIdx fun i b => b + BitVec.ofNat 8 i

/-- `F(h, rk, k2)` (R190): nodes (shuffled x, h or rk plus index), evaluated at 255, 254, …, 224. -/
def roundFunction (h rk k2 : List Byte) : List Byte :=
  let c := interpolate (shuffle k2 (identitySeq 64) 64) (addIndex (h ++ rk))
  (List.range 32).map fun j => evalPoly c (BitVec.ofNat 8 (255 - j))

/-! ### Command -/

/-- ROUNDF (R192): FOUT <- F(FIN, RK, K2). -/
def execRoundf (s : State) : Host.Outcome State Fault Refusal :=
  .next (complete (s.store .fout (roundFunction (s.buffer .fin) (s.buffer .rk) (s.buffer .k2))))

end Sys2Proof.Machine
end

