-- ==== Sys2Proof/Machine/KeySchedule.lean ====
section
/-! DEFINITION. The block cipher key schedule (spec/45_key_schedule.md). -/

namespace Sys2Proof.Machine

/-- What one key-schedule call returns (R200). -/
structure KeyStep where
  /-- The round key `out`. -/
  out : List Byte
  /-- The next key state. -/
  next : List Byte
  /-- The new permutation key k2'. -/
  k2 : List Byte
  deriving DecidableEq, Repr

/-- The values of c at the points offset + sx[i] (R200). -/
def windowValues (c sx : List Byte) (offset : Byte) : List Byte := sx.map fun x => evalPoly c (offset + x)

/-- `KS(in, k2)` (R200): interpolate over the unshuffled nodes (i, in[i] + i); evaluate at the three windows in the order of
the shuffled points; k2'[0..31] is the 192 window, k2'[32..63] stay. -/
def keySchedule (input k2 : List Byte) : KeyStep :=
  let c := interpolate (identitySeq 32) (addIndex input)
  let sx := shuffle (k2.take 32) (identitySeq 32) 32
  { out := windowValues c sx 64#8
    next := windowValues c sx 128#8
    k2 := windowValues c sx 192#8 ++ k2.drop 32 }

/-! ### Command -/

/-- KEYSCHED (R202): KSOUT <- out, K1 <- next, K2 <- k2', all reads before the writes. -/
def execKeysched (s : State) : Host.Outcome State Fault Refusal :=
  let r := keySchedule (s.buffer .k1) (s.buffer .k2)
  .next (complete (((s.store .ksout r.out).store .k1 r.next).store .k2 r.k2))

end Sys2Proof.Machine
end

