-- ==== Sys2Proof/Machine/BlockCipher.lean ====
section
/-! DEFINITION. The 3-round Feistel block cipher (spec/46_block_cipher.md). -/

namespace Sys2Proof.Machine

/-- The IV mix (R209): IV byte b is added into k1 byte b for b = 0..3, each lane mod 256. -/
def mixIv (k1 : List Byte) (iv : Word) : List Byte :=
  k1.mapIdx fun b v => if b < 4 then v + wordByte iv b else v

/-- The three round keys of a block and the evolved key (R209). -/
structure BlockKeys where
  /-- rk0, rk1, rk2. -/
  rk0 : List Byte
  rk1 : List Byte
  rk2 : List Byte
  /-- The evolved k1: the third `next`. -/
  k1 : List Byte
  /-- The evolved k2. -/
  k2 : List Byte
  deriving DecidableEq, Repr

/-- `BlockKeys(k1, k2, iv)` (R209). -/
def blockKeys (k1 k2 : List Byte) (iv : Word) : BlockKeys :=
  let a := keySchedule (mixIv k1 iv) k2
  let b := keySchedule a.next a.k2
  let c := keySchedule b.next b.k2
  { rk0 := a.out, rk1 := b.out, rk2 := c.out, k1 := c.next, k2 := c.k2 }

/-- xor of two buffers, byte by byte (00_scope.md R13). -/
def xorBytes (a b : List Byte) : List Byte := List.zipWith (· ^^^ ·) a b

/-- One encryption round (R210): (L, R) <- (R, L xor F(R, rk, k2)). -/
def encryptRound (k2 : List Byte) (lr : List Byte × List Byte) (rk : List Byte) : List Byte × List Byte :=
  (lr.2, xorBytes lr.1 (roundFunction lr.2 rk k2))

/-- One decryption round (R211): (L, R) <- (R xor F(L, rk, k2), L). -/
def decryptRound (k2 : List Byte) (lr : List Byte × List Byte) (rk : List Byte) : List Byte × List Byte :=
  (xorBytes lr.2 (roundFunction lr.1 rk k2), lr.1)

/-- A block as L = B[0..31], R = B[32..63] (R210). -/
def splitBlock (b : List Byte) : List Byte × List Byte := (b.take 32, b.drop 32)

/-- L ++ R (R210). -/
def joinBlock (lr : List Byte × List Byte) : List Byte := lr.1 ++ lr.2

/-- The block of `Encrypt` (R210): the rounds r = 0, 1, 2 with the k2 after the third key-schedule call (R193). -/
def encryptBlock (keys : BlockKeys) (b : List Byte) : List Byte :=
  joinBlock ([keys.rk0, keys.rk1, keys.rk2].foldl (encryptRound keys.k2) (splitBlock b))

/-- The block of `Decrypt` (R211): the same keys, r = 2, 1, 0. -/
def decryptBlock (keys : BlockKeys) (b : List Byte) : List Byte :=
  joinBlock ([keys.rk2, keys.rk1, keys.rk0].foldl (decryptRound keys.k2) (splitBlock b))

/-- The keys of the current block, from K1, K2 and IV (R209). -/
def State.blockKeys (s : State) : BlockKeys := Sys2Proof.Machine.blockKeys (s.buffer .k1) (s.buffer .k2) s.iv

/-- BLOCK <- b; K1 <- k1'; K2 <- k2'; IV + 1 when INC = 1 (R212, R213). -/
def blockEffect (keys : BlockKeys) (b : List Byte) (inc : Bool) (s : State) : State :=
  (((s.store .block b).store .k1 keys.k1).store .k2 keys.k2).bumpIv inc

/-! ### Commands -/

/-- ENCBLK (R212). -/
def execEncblk (inc : Bool) (s : State) : Host.Outcome State Fault Refusal :=
  .next (complete (blockEffect s.blockKeys (encryptBlock s.blockKeys (s.buffer .block)) inc s))

/-- DECBLK (R213). -/
def execDecblk (inc : Bool) (s : State) : Host.Outcome State Fault Refusal :=
  .next (complete (blockEffect s.blockKeys (decryptBlock s.blockKeys (s.buffer .block)) inc s))

end Sys2Proof.Machine
end

