-- ==== Sys2Proof/Machine/Control.lean ====
section
/-! DEFINITION. NOP (spec/40_command_cycle.md R126). The core has no control-transfer or system command (R127, R128). -/

namespace Sys2Proof.Machine

/-- NOP (R126): nothing but the common effects of a completion. -/
def execNop (s : State) : Host.Outcome State Fault Refusal := .next (complete s)

end Sys2Proof.Machine
end

