-- ==== Sys2Proof/Machine/Dispatch.lean ====
section
/-! DEFINITION. The engine's completion step for a decoded command (spec/40_command_cycle.md R122): one arm per command. -/

namespace Sys2Proof.Machine

def exec (i : Instr) (s : State) : Host.Outcome State Fault Refusal :=
  match i with
  | .nop => Sys2Proof.Machine.execNop s
  | .gfadd a b => Sys2Proof.Machine.execGfadd a b s
  | .gfmul a b => Sys2Proof.Machine.execGfmul a b s
  | .gfdiv a b => Sys2Proof.Machine.execGfdiv a b s
  | .gflog a => Sys2Proof.Machine.execGflog a s
  | .gfexp idx => Sys2Proof.Machine.execGfexp idx s
  | .interp n => Sys2Proof.Machine.execInterp n s
  | .eval n x => Sys2Proof.Machine.execEval n x s
  | .shuffle n => Sys2Proof.Machine.execShuffle n s
  | .roundf => Sys2Proof.Machine.execRoundf s
  | .keysched => Sys2Proof.Machine.execKeysched s
  | .encblk inc => Sys2Proof.Machine.execEncblk inc s
  | .decblk inc => Sys2Proof.Machine.execDecblk inc s

end Sys2Proof.Machine
end

