-- ==== Sys2Proof/Machine/Engine.lean ====
section
/-! DEFINITION. The engine's turn (spec/40_command_cycle.md R120–R122, 70_reset_and_hazards.md R262). -/

namespace Sys2Proof.Machine

/-- The completion step (R122): decode PENDING; a word that does not decode raises its command error (30_encoding.md R95). -/
def completionStep (s : State) : Host.Outcome State Fault Refusal :=
  match decode s.pending with
  | .ok i => exec i s
  | .error e => .next (raiseCmdError (.ofDecodeError e) s)

/-- Whether the engine has an enabled step: initialising or running (R120, R122, R262). -/
def engineEnabled (s : State) : Bool := !s.ready || s.busy

/-- The engine's turn: initialisation while READY = 0, the completion step while running, nothing while idle (R120, R255). -/
def engineTurn (s : State) : Host.Outcome State Fault Refusal :=
  if !s.ready then .next (initialise s)
  else if s.busy then completionStep s
  else .next s

end Sys2Proof.Machine
end

