-- ==== Sys2Proof/Machine/Flags.lean ====
section
/-! DEFINITION. ERRCODE, STATUS, CTRL and `irq` as software sees them (spec/10_state.md R25–R27, 60_exceptions.md R231, R240),
and the write-1-to-clear write of STATUS. The core has no other flags (R26). -/

namespace Sys2Proof.Machine

/-- The code ERRCODE[7:0] holds (R231). -/
def ErrCode.toByte : ErrCode → Byte
  | .noError => 0x00#8
  | .illegalOp => 0x01#8
  | .reservedBits => 0x02#8
  | .badCount => 0x03#8
  | .logZero => 0x04#8
  | .expRange => 0x05#8

/-- STATUS.ERR: "ERR = 1 exactly when ERRCODE ≠ 0" (R26). -/
def State.err (s : State) : Bool := decide (s.errcode.toByte ≠ 0x00#8)

/-- A flag as bit k of a word. -/
def flagBit (flag : Bool) (k : Nat) : Word := (BitVec.ofBool flag).setWidth 32 <<< k

/-- STATUS as read: BUSY, READY, DONE, ERR, OVR in bits 0..4, bits [31:5] zero (R26). -/
def State.statusWord (s : State) : Word :=
  flagBit s.busy 0 ||| flagBit s.ready 1 ||| flagBit s.done 2 ||| flagBit s.err 3 ||| flagBit s.ovr 4

/-- CTRL as read: IRQ_EN in bit 0, bits [31:1] zero (R25). -/
def State.ctrlWord (s : State) : Word := flagBit s.irqEn 0

/-- The level output `irq = CTRL.IRQ_EN and STATUS.DONE` (R42, R240). -/
def State.irq (s : State) : Bool := s.irqEn && s.done

/-- A write to STATUS: a 1 in bit 2 clears DONE, a 1 in bit 4 clears OVR, every other bit is ignored (R26, R71). Writing 1 to
DONE is the acknowledge of a completion (60_exceptions.md R239). -/
def writeStatus (v : Word) (s : State) : State :=
  { s with done := s.done && !v.getLsbD 2, ovr := s.ovr && !v.getLsbD 4 }

/-- A write to CTRL: bit 0 to IRQ_EN, the rest ignored (R25). -/
def writeCtrl (v : Word) (s : State) : State := { s with irqEn := v.getLsbD 0 }

end Sys2Proof.Machine
end

