-- ==== Sys2Proof/Machine/Bus.lean ====
section
/-! DEFINITION. The register map and the host's bus accesses (spec/20_memory.md). -/

namespace Sys2Proof.Machine

/-- How many bytes an access covers (R14). -/
def Width.bytes : Width → Nat
  | .byte => 1
  | .half => 2
  | .word => 4

/-- The register map: first offset, size, target (R61). Every offset not listed is reserved. -/
def registerMap : List (Nat × Nat × Target) :=
  [ (0x000, 4, .scalar .id), (0x004, 4, .scalar .ctrl), (0x008, 4, .scalar .status), (0x00C, 4, .scalar .errcode),
    (0x010, 4, .scalar .cmd), (0x014, 4, .scalar .result), (0x018, 4, .scalar .iv) ] ++
  [Window.k1, .k2, .block, .xs, .ys, .coef, .seq, .seed, .fin, .rk, .fout, .ksout].map
    (fun w => (w.base, w.size, .window w))

/-- What the byte at an offset belongs to; none for a reserved offset or one outside the block (R61, R67). -/
def targetAt (off : Nat) : Option Target :=
  (registerMap.find? fun r => decide (r.1 ≤ off) && decide (off < r.1 + r.2.1)).map fun r => r.2.2

/-- The checks of an access in R70's order: reserved (R67), misaligned (R69), narrow (R68); else its target. -/
def checkAccess (off : Nat) (width : Width) : Except BusError Target :=
  if (List.range width.bytes).any (fun k => (targetAt (off + k)).isNone) then .error .reserved
  else if off % width.bytes ≠ 0 then .error .misaligned
  else match targetAt off with
    | none => .error .reserved
    | some (.scalar r) => if width = .word then .ok (.scalar r) else .error .narrow
    | some (.window w) => .ok (.window w)

/-- A scalar register as read (10_state.md R24–R30). -/
def State.scalarValue (s : State) : ScalarReg → Word
  | .id => Config.idValue
  | .ctrl => s.ctrlWord
  | .status => s.statusWord
  | .errcode => s.errcode.toByte.setWidth 32
  | .cmd => s.cmd
  | .result => s.result.setWidth 32
  | .iv => s.iv

/-- The targets a read of which gives a free value, and a write to which (but RESULT's) is discarded, while BUSY = 1 (R72,
R73). -/
def Target.isData : Target → Bool
  | .scalar .id => false
  | .scalar .ctrl => false
  | .scalar .status => false
  | .scalar .errcode => false
  | .scalar .cmd => false
  | .scalar .result => true
  | .scalar .iv => true
  | .window _ => true

/-- The value a target holds at an access (R65). -/
def State.targetValue (s : State) (off : Nat) (width : Width) : Target → Word
  | .scalar r => s.scalarValue r
  | .window _ => littleEndian (Memory.readBytes s.mem off width.bytes)

/-- `BusRead(off, n)`: the response and the state after it. A read changes nothing (R74) but the count of free bytes when its
value is a draw (R73). -/
def busRead (off : Nat) (width : Width) (s : State) : BusResponse × State :=
  match checkAccess off width with
  | .error _ => (.error, s)
  | .ok t =>
    if s.busy && t.isData then (.data (littleEndian (drawBytes width.bytes s).1), (drawBytes width.bytes s).2)
    else (.data (s.targetValue off width t), s)

/-- A write that passed the checks (R65, R71, R72): read-only registers ignore it; CTRL and STATUS take it always; CMD, IV
and the windows take it while BUSY = 0 and discard it otherwise. -/
def writeTarget (off : Nat) (width : Width) (v : Word) (t : Target) (s : State) : State :=
  match t with
  | .scalar .id => s
  | .scalar .ctrl => writeCtrl v s
  | .scalar .status => writeStatus v s
  | .scalar .errcode => s
  | .scalar .cmd => if s.busy then discardWrite s else accept v s
  | .scalar .result => s
  | .scalar .iv => if s.busy then discardWrite s else { s with iv := v }
  | .window _ =>
    if s.busy then discardWrite s
    else { s with mem := Memory.writeBytes s.mem off (wordBytes v width.bytes) }

/-- `BusWrite(off, n, v)`: the response and the state after it; a refused access changes nothing (R70). -/
def busWrite (off : Nat) (width : Width) (v : Word) (s : State) : BusResponse × State :=
  match checkAccess off width with
  | .error _ => (.error, s)
  | .ok t => (.ack, writeTarget off width v t s)

/-- The offset a platform address presents to the core: none below `KC3_BASE` (R60; log 7). -/
def offsetOfAddress (addr : Nat) : Option Nat :=
  if Config.kc3Base ≤ addr then some (addr - Config.kc3Base) else none

end Sys2Proof.Machine
end

