-- ==== Sys2Proof/Machine/HostProgram.lean ====
section
/-! DEFINITION. How a host program is written: the host syntax of spec/30_encoding.md R101, the pseudo-commands of R100 and
the assembler of R99. -/

namespace Sys2Proof.Machine

/-! ### Host program forms (R101) -/

/-- `sw OFF, v`. -/
def sw (off : Nat) (v : Word) : List HostOp := [.write off .word v]

/-- `sh OFF, v`. -/
def sh (off : Nat) (v : Word) : List HostOp := [.write off .half v]

/-- `sb OFF, v`. -/
def sb (off : Nat) (v : Byte) : List HostOp := [.write off .byte (v.setWidth 32)]

/-- `lw OFF`. -/
def lw (off : Nat) : List HostOp := [.read off .word]

/-- `lh OFF`. -/
def lh (off : Nat) : List HostOp := [.read off .half]

/-- `lb OFF`. -/
def lb (off : Nat) : List HostOp := [.read off .byte]

/-- `wait`. -/
def wait : List HostOp := [.wait]

/-- The offset of a scalar register (20_memory.md R61). -/
def ScalarReg.offset : ScalarReg → Nat
  | .id => 0x000
  | .ctrl => 0x004
  | .status => 0x008
  | .errcode => 0x00C
  | .cmd => 0x010
  | .result => 0x014
  | .iv => 0x018

/-- `issue <word>`: write a command word to CMD. -/
def issueWord (w : Word) : List HostOp := sw ScalarReg.cmd.offset w

/-- `issue <command>`. -/
def issue (i : Instr) : List HostOp := issueWord (encode i)

/-- `cmd <command>`: issue, then wait. -/
def cmd (i : Instr) : List HostOp := issue i ++ wait

/-- `fill BUF, b0 b1 …`: one byte write for each byte, in order. -/
def fill (off : Nat) : List Byte → List HostOp
  | [] => []
  | b :: bs => sb off b ++ fill (off + 1) bs

/-- A read at a platform address (20_memory.md R60; log 7). -/
def readAt (addr : Nat) (width : Width) : Option HostOp := (offsetOfAddress addr).map fun off => .read off width

/-- A write at a platform address (R60; log 7). -/
def writeAt (addr : Nat) (width : Width) (v : Word) : Option HostOp :=
  (offsetOfAddress addr).map fun off => .write off width v

/-! ### Pseudo-commands (R100) -/

/-- `gfsub a, b` is `gfadd a, b`. -/
def gfsub (a b : Byte) : Instr := .gfadd a b

/-- `gfinv a` is `gfdiv 0x01, a`. -/
def gfinv (a : Byte) : Instr := .gfdiv 0x01#8 a

/-- `gfsq a` is `gfmul a, a`. -/
def gfsq (a : Byte) : Instr := .gfmul a a

/-- `gfpow2 k` is `gfexp k`, for 0 ≤ k ≤ 509. -/
def gfpow2 (k : Nat) : Option Instr := if k ≤ 509 then some (.gfexp k) else none

/-! ### Assembler (R99) -/

/-- A byte operand; one over 255 is refused, not truncated (R99). -/
def byteOperand (n : Nat) : Option Byte := if n ≤ 255 then some (BitVec.ofNat 8 n) else none

/-- A command whose operands must fit their fields. -/
def fitting (i : Instr) : Option Instr := if i.wellFormed then some i else none

/-- The command of a mnemonic and its operands; none where the line is refused (R99, R100). -/
def assemble (mnemonic : List Char) (operands : List Nat) : Option Instr :=
  let two (f : Byte → Byte → Instr) (a b : Nat) : Option Instr :=
    (byteOperand a).bind fun a => (byteOperand b).map fun b => f a b
  match String.ofList mnemonic, operands with
  | "nop", [] => some .nop
  | "gfadd", [a, b] => two .gfadd a b
  | "gfmul", [a, b] => two .gfmul a b
  | "gfdiv", [a, b] => two .gfdiv a b
  | "gflog", [a] => (byteOperand a).map .gflog
  | "gfexp", [idx] => fitting (.gfexp idx)
  | "interp", [n] => fitting (.interp n)
  | "eval", [n, x] => (byteOperand x).bind fun x => fitting (.eval n x)
  | "shuffle", [n] => fitting (.shuffle n)
  | "roundf", [] => some .roundf
  | "keysched", [] => some .keysched
  | "encblk", [] => some (.encblk false)
  | "encblk.inc", [] => some (.encblk true)
  | "decblk", [] => some (.decblk false)
  | "decblk.inc", [] => some (.decblk true)
  | "gfsub", [a, b] => two gfsub a b
  | "gfinv", [a] => (byteOperand a).map gfinv
  | "gfsq", [a] => (byteOperand a).map gfsq
  | "gfpow2", [k] => gfpow2 k
  | _, _ => none

/-- The value of a digit in a base. -/
def digit (base : Nat) (c : Char) : Option Nat :=
  let n := c.toNat
  let v := if 48 ≤ n ∧ n ≤ 57 then n - 48
    else if 97 ≤ n ∧ n ≤ 102 then n - 87
    else if 65 ≤ n ∧ n ≤ 70 then n - 55
    else base
  if v < base then some v else none

/-- Digits to a number, most significant first. -/
def digits (base : Nat) : Nat → List Char → Option Nat
  | acc, [] => some acc
  | acc, c :: cs => (digit base c).bind fun d => digits base (acc * base + d) cs

/-- A number, decimal or 0x-prefixed hexadecimal (R99). -/
def number : List Char → Option Nat
  | [] => none
  | ['0', 'x'] => none
  | '0' :: 'x' :: cs => digits 16 0 cs
  | cs => digits 10 0 cs

/-- Without the spaces at either end (log 20). -/
def trimmed (cs : List Char) : List Char := ((cs.dropWhile (· = ' ')).reverse.dropWhile (· = ' ')).reverse

/-- The pieces between separators. -/
def splitAtChar (sep : Char) : List Char → List (List Char)
  | [] => [[]]
  | c :: cs =>
    if c = sep then [] :: splitAtChar sep cs
    else match splitAtChar sep cs with
      | [] => [[c]]
      | p :: ps => (c :: p) :: ps

/-- The operands of a line: numbers separated by commas, or none at all (R99). -/
def operandList (cs : List Char) : Option (List Nat) :=
  if trimmed cs = [] then some [] else (splitAtChar ',' cs).mapM fun piece => number (trimmed piece)

/-- One assembler line: a mnemonic in lower case, then its operands (R99). -/
def assembleLine (line : List Char) : Option Instr :=
  let line := trimmed line
  (operandList (line.dropWhile (· ≠ ' '))).bind (assemble (line.takeWhile (· ≠ ' ')))

/-- The offset a register's or window's name stands for (20_memory.md R61). -/
def namedOffset (name : List Char) : Option Nat :=
  match String.ofList name with
  | "ID" => some ScalarReg.id.offset
  | "CTRL" => some ScalarReg.ctrl.offset
  | "STATUS" => some ScalarReg.status.offset
  | "ERRCODE" => some ScalarReg.errcode.offset
  | "CMD" => some ScalarReg.cmd.offset
  | "RESULT" => some ScalarReg.result.offset
  | "IV" => some ScalarReg.iv.offset
  | "K1" => some Window.k1.base
  | "K2" => some Window.k2.base
  | "BLOCK" => some Window.block.base
  | "XS" => some Window.xs.base
  | "YS" => some Window.ys.base
  | "COEF" => some Window.coef.base
  | "SEQ" => some Window.seq.base
  | "SEED" => some Window.seed.base
  | "FIN" => some Window.fin.base
  | "RK" => some Window.rk.base
  | "FOUT" => some Window.fout.base
  | "KSOUT" => some Window.ksout.base
  | _ => none

/-- `OFF`: a number, a name, or a name plus a number (R101). -/
def offsetOperand (cs : List Char) : Option Nat :=
  match splitAtChar '+' cs with
  | [a] => (namedOffset (trimmed a)).orElse fun _ => number (trimmed a)
  | [a, b] => (namedOffset (trimmed a)).bind fun base => (number (trimmed b)).map fun k => base + k
  | _ => none

end Sys2Proof.Machine
end

