-- ==== Sys2Proof/Machine/HostAgent.lean ====
section
/-! DEFINITION. The host's turn: its next bus access (spec/00_scope.md R14, R17, 20_memory.md R76). -/

namespace Sys2Proof.Machine

/-- Record what the bus answered (70_reset_and_hazards.md R275). -/
def State.respond (s : State) (r : BusResponse) : State := { s with responses := s.responses ++ [r] }

/-- Perform one access and record its response. -/
def perform (access : State → BusResponse × State) (s : State) : State := (access s).2.respond (access s).1

/-- The host's turn: its next operation, one bus access (R74). `wait` reads STATUS and stays the next operation while BUSY = 1
(30_encoding.md R101). A host with nothing left does nothing. -/
def hostTurn (s : State) : State :=
  match s.host with
  | [] => s
  | .read off width :: rest => perform (busRead off width) { s with host := rest }
  | .write off width v :: rest => perform (busWrite off width v) { s with host := rest }
  | .wait :: rest =>
    perform (busRead ScalarReg.status.offset .word) { s with host := if s.busy then .wait :: rest else rest }

end Sys2Proof.Machine
end

