-- ==== Sys2Proof/Machine/Step.lean ====
section
/-! DEFINITION. One step of the machine: the next turn of one total order of host accesses, engine steps and resets
(spec/20_memory.md R76), and the placing of a command word for the very next step. -/

namespace Sys2Proof.Machine

/-- One step. The head of `turns` moves. When no turn is listed, an enabled engine step is taken first, so that every accepted
command completes (40_command_cycle.md R125), and the host moves otherwise (log 3). -/
def step (s : State) : Host.Outcome State Fault Refusal :=
  match s.turns with
  | .engine :: rest => engineTurn { s with turns := rest }
  | .host :: rest => .next (hostTurn { s with turns := rest })
  | .reset :: rest => .next (resetCore { s with turns := rest })
  | [] => if engineEnabled s then engineTurn s else .next (hostTurn s)

/-- The state in which the command word w has just been accepted by an initialised core and the engine moves next: the core
fetches nothing (10_state.md R21), so a command comes to run by an accepted CMD write (log 5). Bits at `nbits` and above are
0. -/
def State.withFetchWord (s : State) (nbits w : Nat) : State :=
  { accept (BitVec.ofNat 32 (w % 2 ^ nbits)) { s with ready := true } with turns := .engine :: s.turns }

end Sys2Proof.Machine
end

