-- ==== Sys2Proof/Safety.lean ====
section
/-! DEFINITION. The terms the claims use: the invariant of a run, and the rules of the spec written a second time, apart from
the machine's own functions (field product as polynomial product, error priority, reserved offsets, reserved bits). -/

namespace Sys2Proof.Machine

/-! ### The invariant -/

/-- The offset of a window byte. -/
def inWindow (off : Nat) : Bool :=
  match targetAt off with
  | some (.window _) => true
  | some (.scalar _) => false
  | none => false

/-- Initialising: BUSY = 1, READY = 0 (R120). -/
def State.initialising (s : State) : Prop := s.busy = true ∧ s.ready = false

/-- Idle: BUSY = 0, READY = 1 (R120). -/
def State.idle (s : State) : Prop := s.busy = false ∧ s.ready = true

/-- Running: BUSY = 1, READY = 1 (R120). -/
def State.running (s : State) : Prop := s.busy = true ∧ s.ready = true

/-- What holds of every state a run reaches. -/
structure State.Inv (s : State) : Prop where
  /-- The window memory is in canonical form. -/
  mem_wf : Memory.wf s.mem = true
  /-- Only window bytes are listed (R60, R61). -/
  mem_inWindows : s.mem.all (fun c => inWindow c.1) = true
  /-- "No other combination occurs" (R120). -/
  condition : s.initialising ∨ s.idle ∨ s.running
  /-- DONE = 0 while BUSY = 1: set by a completion, cleared by an acceptance (R26, R121). -/
  busy_not_done : s.busy = true → s.done = false
  /-- ERRCODE = 0 while BUSY = 1 (R27, R121). -/
  busy_no_error : s.busy = true → s.errcode = .noError
  /-- PENDING is equal to CMD while BUSY = 1 after initialisation (R40). -/
  running_pending : s.running → s.pending = s.cmd
  /-- Nothing but CTRL and OVR leaves its reset value before initialisation ends (R260, R262). -/
  initialising_reset : s.initialising →
    s.cmd = 0x00000000#32 ∧ s.pending = 0x00000000#32 ∧ s.result = 0x00#8 ∧ s.iv = 0x00000000#32 ∧ s.mem = []

/-! ### Field arithmetic as polynomials (R140) -/

/-- The product of two polynomials over the 2-element field, bit k the coefficient of x^k, not reduced. -/
def carrylessProduct (a b : Byte) : BitVec 16 :=
  (List.range 8).foldl (fun acc k => if b.getLsbD k then acc ^^^ (a.setWidth 16 <<< k) else acc) 0#16

/-- The remainder modulo P(x) = x^8 + x^4 + x^3 + x^2 + 1 (0x11D), by long division from x^14 down. -/
def reduceModP (v : BitVec 16) : BitVec 16 :=
  [14, 13, 12, 11, 10, 9, 8].foldl (fun v d => if v.getLsbD d then v ^^^ (0x11D#16 <<< (d - 8)) else v) v

/-- Field multiplication: "the product of the two polynomials reduced modulo P(x)" (R140). -/
def polyProduct (a b : Byte) : Byte := (reduceModP (carrylessProduct a b)).setWidth 8

/-- 0x02 to the power n under `polyProduct` (R142). -/
def alphaPower : Nat → Byte
  | 0 => 0x01#8
  | n + 1 => polyProduct (alphaPower n) 0x02#8

/-- z to the power k under `gmul`. -/
def gpow (z : Byte) : Nat → Byte
  | 0 => 0x01#8
  | k + 1 => gmul (gpow z k) z

/-- The terms c[0]·z^k xor c[1]·z^(k+1) xor …. -/
def polyTerms (z : Byte) : Nat → List Byte → Byte
  | _, [] => 0x00#8
  | k, c :: cs => gmul c (gpow z k) ^^^ polyTerms z (k + 1) cs

/-- P(z) = c[0] xor gmul(c[1], z) xor … xor gmul(c[n-1], z^(n-1)) (R160). -/
def polyValue (c : List Byte) (z : Byte) : Byte := polyTerms z 0 c

/-! ### Encodings and errors -/

/-- The thirteen assigned opcodes (R95). -/
def assignedOps : List Byte :=
  [0x00#8, 0x01#8, 0x02#8, 0x03#8, 0x04#8, 0x05#8, 0x10#8, 0x11#8, 0x18#8, 0x20#8, 0x28#8, 0x30#8, 0x31#8]

/-- The bits marked r in the format of an assigned opcode (R92): formats AB and NX, A1 and NC, I9, BK, else Z. -/
def reservedMask (op : Byte) : Word :=
  if op ∈ [0x01#8, 0x02#8, 0x03#8, 0x11#8] then 0xFF000000#32
  else if op ∈ [0x04#8, 0x10#8, 0x18#8] then 0xFFFF0000#32
  else if op = 0x05#8 then 0xFFFE0000#32
  else if op ∈ [0x30#8, 0x31#8] then 0xFFFFFE00#32
  else 0xFFFFFF00#32

/-- The one error a word reports (R233, R234): ILLEGAL_OP, then RESERVED_BITS, then the command's operand check (R124). -/
def errorOf (w : Word) : ErrCode :=
  let op := w.extractLsb' 0 8
  let n := (w.extractLsb' 8 8).toNat
  if op ∉ assignedOps then .illegalOp
  else if w &&& reservedMask op ≠ 0#32 then .reservedBits
  else if op ∈ [0x10#8, 0x11#8, 0x18#8] ∧ (n = 0 ∨ 64 < n) then .badCount
  else if op = 0x04#8 ∧ n = 0 then .logZero
  else if op = 0x05#8 ∧ 510 ≤ (w.extractLsb' 8 9).toNat then .expRange
  else .noError

/-- The commands that write RESULT when they complete without error (R29). -/
def writesResult : Instr → Bool
  | .nop => false
  | .gfadd _ _ => true
  | .gfmul _ _ => true
  | .gfdiv _ _ => true
  | .gflog _ => true
  | .gfexp _ => true
  | .interp _ => false
  | .eval _ _ => true
  | .shuffle _ => false
  | .roundf => false
  | .keysched => false
  | .encblk _ => false
  | .decblk _ => false

/-- The commands that store to no window (R64). -/
def storesNothing : Instr → Bool
  | .nop => true
  | .gfadd _ _ => true
  | .gfmul _ _ => true
  | .gfdiv _ _ => true
  | .gflog _ => true
  | .gfexp _ => true
  | .interp _ => false
  | .eval _ _ => true
  | .shuffle _ => false
  | .roundf => false
  | .keysched => false
  | .encblk _ => false
  | .decblk _ => false

/-! ### The register map in ranges -/

/-- The reserved offsets and those outside the block (R61, R67). -/
def reservedOffset (off : Nat) : Prop :=
  (0x01C ≤ off ∧ off ≤ 0x03F) ∨ (0x0A0 ≤ off ∧ off ≤ 0x0BF) ∨ 0x2C0 ≤ off

/-- The offsets of the byte windows (R61). -/
def windowOffset (off : Nat) : Prop := (0x040 ≤ off ∧ off ≤ 0x09F) ∨ (0x0C0 ≤ off ∧ off ≤ 0x2BF)

/-- The accesses `raise BusError` refuses (R67, R68, R69). -/
def refusedAccess (off : Nat) (width : Width) : Prop :=
  (∃ k, k < width.bytes ∧ reservedOffset (off + k)) ∨ off % width.bytes ≠ 0 ∨ (off < 0x01C ∧ width ≠ .word)

/-! ### Block cipher by halves and lanes -/

/-- The IV mix lane by lane (R209): byte b < 4 gets IV[8b+7:8b] added mod 256, bytes 4..31 stay. -/
def isIvMix (k1 mixed : List Byte) (iv : Word) : Prop :=
  mixed.length = 32 ∧
  (∀ b, b < 4 → mixed.getD b 0x00#8 = k1.getD b 0x00#8 + iv.extractLsb' (8 * b) 8) ∧
  ∀ b, 4 ≤ b → b < 32 → mixed.getD b 0x00#8 = k1.getD b 0x00#8

/-- `BlockKeys` (R209): the IV mix, then three key-schedule calls, each from the last one's `next` and k2'. -/
def areBlockKeys (k1 k2 : List Byte) (iv : Word) (keys : BlockKeys) : Prop :=
  isIvMix k1 (mixIv k1 iv) iv ∧
  let first := keySchedule (mixIv k1 iv) k2
  let second := keySchedule first.next first.k2
  let third := keySchedule second.next second.k2
  keys.rk0 = first.out ∧ keys.rk1 = second.out ∧ keys.rk2 = third.out ∧ keys.k1 = third.next ∧ keys.k2 = third.k2

/-- One half xor F of the other, byte by byte (R210, R211). -/
def feistelHalf (k2 half other rk : List Byte) : List Byte :=
  List.zipWith (fun a b => a ^^^ b) half (roundFunction other rk k2)

end Sys2Proof.Machine
end

