-- ==== Sys2Proof/Certificates/Slice0/Obligations.lean ====
section
/-! DEFINITION. The statements for the provers. Each docstring names the rule of spec/ it formalises. -/

open Sys2Proof Sys2Proof.Machine

/-! ### Encoding -/

/-- Decode and encode agree on every well-formed command, every operand at every value its field admits (R91–R95). -/
def Obligations.DecodeOfEncodeIsTheCommand : Prop :=
  ∀ i : Instr, i.wellFormed = true → decode (encode i) = .ok i

/-- R95: every word selects one command, whose encoding is that word, or is refused by name. -/
def Obligations.DecoderSelectsOrRefusesByName : Prop :=
  ∀ w : Word,
    (w.extractLsb' 0 8 ∉ assignedOps → decode w = .error .illegalOp) ∧
    (w.extractLsb' 0 8 ∈ assignedOps → w &&& reservedMask (w.extractLsb' 0 8) ≠ 0#32 →
      decode w = .error .reservedBits) ∧
    (w.extractLsb' 0 8 ∈ assignedOps → w &&& reservedMask (w.extractLsb' 0 8) = 0#32 →
      ∃ i, decode w = .ok i ∧ encode i = w ∧ i.wellFormed = true)

/-- The example words of R99 and three refused words of R96, R97, R234. -/
def Obligations.ExampleWordsDecode : Prop :=
  decode 0x00800202#32 = .ok (.gfmul 0x02#8 0x80#8) ∧
  decode 0x00001D04#32 = .ok (.gflog 0x1D#8) ∧
  decode 0x00012C05#32 = .ok (.gfexp 300) ∧
  decode 0x00004010#32 = .ok (.interp 64) ∧
  decode 0x00020311#32 = .ok (.eval 3 0x02#8) ∧
  decode 0x00000028#32 = .ok .keysched ∧
  decode 0x00000130#32 = .ok (.encblk true) ∧
  decode 0x00000006#32 = .error .illegalOp ∧
  decode 0xFFFFFFFF#32 = .error .illegalOp ∧
  decode 0x01000010#32 = .error .reservedBits

/-- R99: each mnemonic with operands that fit gives its command with those operands, an operand that does not fit is refused, and
what the assembler gives fits its fields; R100: the expansion of each pseudo-command; the examples of R99 as written lines. -/
def Obligations.AssembledCommandsFitTheirFields : Prop :=
  (∀ (mnemonic : List Char) (operands : List Nat) (i : Instr),
    assemble mnemonic operands = some i → i.wellFormed = true) ∧
  (assemble "nop".toList [] = some .nop ∧ assemble "roundf".toList [] = some .roundf ∧
    assemble "keysched".toList [] = some .keysched ∧
    assemble "encblk".toList [] = some (.encblk false) ∧ assemble "encblk.inc".toList [] = some (.encblk true) ∧
    assemble "decblk".toList [] = some (.decblk false) ∧ assemble "decblk.inc".toList [] = some (.decblk true)) ∧
  (∀ a b : Nat,
    let fits := a ≤ 255 ∧ b ≤ 255
    let x := BitVec.ofNat 8 a
    let y := BitVec.ofNat 8 b
    assemble "gfadd".toList [a, b] = (if fits then some (.gfadd x y) else none) ∧
    assemble "gfmul".toList [a, b] = (if fits then some (.gfmul x y) else none) ∧
    assemble "gfdiv".toList [a, b] = (if fits then some (.gfdiv x y) else none) ∧
    assemble "eval".toList [a, b] = (if fits then some (.eval a y) else none) ∧
    assemble "gfsub".toList [a, b] = (if fits then some (.gfadd x y) else none)) ∧
  (∀ a : Nat,
    let x := BitVec.ofNat 8 a
    assemble "gflog".toList [a] = (if a ≤ 255 then some (.gflog x) else none) ∧
    assemble "gfexp".toList [a] = (if a ≤ 511 then some (.gfexp a) else none) ∧
    assemble "interp".toList [a] = (if a ≤ 255 then some (.interp a) else none) ∧
    assemble "shuffle".toList [a] = (if a ≤ 255 then some (.shuffle a) else none) ∧
    assemble "gfinv".toList [a] = (if a ≤ 255 then some (.gfdiv 0x01#8 x) else none) ∧
    assemble "gfsq".toList [a] = (if a ≤ 255 then some (.gfmul x x) else none) ∧
    assemble "gfpow2".toList [a] = (if a ≤ 509 then some (.gfexp a) else none)) ∧
  (["keysched", "gfmul 0x02, 0x80", "gflog 0x1D", "gfexp 300", "interp 64", "eval 3, 0x02", "encblk.inc"].map
      (fun line => (assembleLine line.toList).map encode) =
    [0x00000028#32, 0x00800202#32, 0x00001D04#32, 0x00012C05#32, 0x00004010#32, 0x00020311#32, 0x00000130#32].map some)

/-! ### The command cycle -/

/-- A step runs the decoded command: the completion step of a running core whose turn is the engine's (or with no turn
listed, log 3) is `exec` of the command PENDING decodes to (R122). -/
def Obligations.StepRunsTheDecodedCommand : Prop :=
  ∀ (s : State) (i : Instr), s.running → decode s.pending = .ok i →
    (∀ rest, s.turns = .engine :: rest → step s = exec i { s with turns := rest }) ∧
    (s.turns = [] → step s = exec i s)

/-- Every step answers a next state. "Nothing in the core is `stuck`" (93_implementation_defined.md, end of part 1); that a
refused access is a next state and no fault (log 4), and that an idle turn is a step (log 21), are the model's choices. -/
def Obligations.EveryStepAnswersNext : Prop :=
  ∀ s : State, ∃ t, step s = .next t

/-- R121: acceptance of a command word, whatever the word; while BUSY = 1 the write is discarded with OVR <- 1. -/
def Obligations.CommandWriteIsAcceptedOrDiscarded : Prop :=
  ∀ (s : State) (w : Word),
    (s.busy = false → busWrite 0x010 .word w s =
      (.ack, { s with cmd := w, pending := w, busy := true, done := false, errcode := .noError })) ∧
    (s.busy = true → busWrite 0x010 .word w s = (.ack, { s with ovr := true }))

/-- Every accepted word completes at the engine's next step (R122, R125). -/
def Obligations.AcceptedWordCompletesAtTheEngineStep : Prop :=
  ∀ (s : State) (w : Word), s.ready = true →
    ∃ t, engineTurn (accept w s) = .next t ∧ t.busy = false ∧ t.done = true ∧ t.ready = true ∧ t.cmd = w ∧
      t.irqEn = s.irqEn ∧ t.ovr = s.ovr ∧ t.host = s.host ∧ t.turns = s.turns ∧ t.responses = s.responses

/-- R232: a command error writes only ERRCODE (so ERR = 1), BUSY and DONE. -/
def Obligations.CommandErrorWritesOnlyErrcodeAndStatus : Prop :=
  ∀ s t : State, s.running → engineTurn s = .next t → t.errcode ≠ .noError →
    t = { s with errcode := t.errcode, busy := false, done := true } ∧ t.err = true ∧ t.cmd = s.cmd

/-- R233, R234: the completion step reports exactly the one error of the priority order. -/
def Obligations.CompletionReportsTheErrorOfThePriorityOrder : Prop :=
  ∀ s : State, s.running → ∃ t, engineTurn s = .next t ∧ t.errcode = errorOf s.pending

/-- R96: a word whose OP is unassigned completes with ILLEGAL_OP and changes nothing else. -/
def Obligations.UnassignedOpcodeCompletesWithIllegalOp : Prop :=
  ∀ s : State, s.running → s.pending.extractLsb' 0 8 ∉ assignedOps →
    engineTurn s = .next { s with errcode := .illegalOp, busy := false, done := true }

/-- R97: a reserved bit set under an assigned OP completes with RESERVED_BITS and changes nothing else. -/
def Obligations.ReservedBitCompletesWithReservedBits : Prop :=
  ∀ s : State, s.running → s.pending.extractLsb' 0 8 ∈ assignedOps →
    s.pending &&& reservedMask (s.pending.extractLsb' 0 8) ≠ 0#32 →
    engineTurn s = .next { s with errcode := .reservedBits, busy := false, done := true }

/-! ### NOP and the field commands -/

/-- NOP (R126): only the common effects of a completion. -/
def Obligations.NopCompletes : Prop :=
  ∀ s : State, exec .nop s = .next { s with errcode := .noError, busy := false, done := true }

/-- GFADD (R145): RESULT <- a xor b. -/
def Obligations.GfaddGivesTheXor : Prop :=
  ∀ (a b : Byte) (s : State),
    exec (.gfadd a b) s = .next { s with result := a ^^^ b, errcode := .noError, busy := false, done := true }

/-- GFMUL (R140, R143, R146): RESULT is the product of the polynomials reduced modulo P. -/
def Obligations.GfmulGivesThePolynomialProduct : Prop :=
  ∀ (a b : Byte) (s : State),
    exec (.gfmul a b) s = .next { s with result := polyProduct a b, errcode := .noError, busy := false, done := true }

/-- GFDIV (R144, R147): 0 for a = 0 or b = 0 (no error), else the q with q · b = a. -/
def Obligations.GfdivGivesTheFieldQuotient : Prop :=
  ∀ (a b : Byte) (s : State), ∃ q : Byte,
    exec (.gfdiv a b) s = .next { s with result := q, errcode := .noError, busy := false, done := true } ∧
    (a = 0x00#8 ∨ b = 0x00#8 → q = 0x00#8) ∧
    (a ≠ 0x00#8 → b ≠ 0x00#8 → polyProduct q b = a)

/-- GFLOG (R142, R148): RESULT is the k in 0..254 with 0x02^k = a; LOG_ZERO for a = 0, with no RESULT. -/
def Obligations.GflogGivesTheDiscreteLogOrLogZero : Prop :=
  ∀ (a : Byte) (s : State),
    (a ≠ 0x00#8 → ∃ k, k ≤ 254 ∧ alphaPower k = a ∧ exec (.gflog a) s = .next { s with
      result := BitVec.ofNat 8 k, errcode := .noError, busy := false, done := true }) ∧
    (a = 0x00#8 → exec (.gflog a) s = .next { s with errcode := .logZero, busy := false, done := true })

/-- GFEXP (R142, R149): RESULT is 0x02^(idx mod 255) up to idx 509; EXP_RANGE above, with no RESULT. -/
def Obligations.GfexpGivesThePowerOrExpRange : Prop :=
  ∀ (idx : Nat) (s : State),
    (idx ≤ 509 → exec (.gfexp idx) s = .next { s with
      result := alphaPower (idx % 255), errcode := .noError, busy := false, done := true }) ∧
    (510 ≤ idx → exec (.gfexp idx) s = .next { s with errcode := .expRange, busy := false, done := true })

/-- R142: EXP lists the powers of 0x02 twice, each nonzero byte once in EXP[0..254], LOG inverts it, LOG[0] holds 0, and PROD
is built from both. -/
def Obligations.TablesHoldPowersAndLogs : Prop :=
  (∀ i, i ≤ 509 → expAt i = alphaPower (i % 255)) ∧
  (∀ i, i ≤ 254 → logAt (expAt i) = BitVec.ofNat 8 i) ∧
  (∀ a : Byte, a ≠ 0x00#8 → (logAt a).toNat ≤ 254) ∧
  (∀ a : Byte, a ≠ 0x00#8 → ∃ i, i ≤ 254 ∧ expAt i = a) ∧
  (∀ i j, i ≤ 254 → j ≤ 254 → expAt i = expAt j → i = j) ∧
  (∀ i, i ≤ 509 → expAt i ≠ 0x00#8) ∧
  alphaPower 255 = 0x01#8 ∧
  logAt 0x00#8 = 0x00#8 ∧
  (∀ a b : Byte, gmul a b =
    if a = 0x00#8 ∨ b = 0x00#8 then 0x00#8 else expAt ((logAt a).toNat + (logAt b).toNat))

/-- R150: the field laws. -/
def Obligations.FieldLawsHold : Prop :=
  (∀ a : Byte, a ≠ 0x00#8 → gmul a (gdiv 0x01#8 a) = 0x01#8) ∧
  (∀ a b : Byte, gmul a b = gmul b a) ∧
  (∀ a b c : Byte, gmul a (b ^^^ c) = gmul a b ^^^ gmul a c) ∧
  (∀ a : Byte, gmul a 0x00#8 = 0x00#8)

/-! ### Interpolation and evaluation -/

/-- R161: Horner's method gives the value of the polynomial with these coefficients. -/
def Obligations.HornerGivesThePolynomialValue : Prop :=
  ∀ (c : List Byte) (x : Byte), evalPoly c x = polyValue c x

/-- EVAL (R164): RESULT is the value of COEF[0..n-1] at x for 1 ≤ n ≤ 64; BAD_COUNT otherwise, with no RESULT. -/
def Obligations.EvalGivesThePolynomialValueOrBadCount : Prop :=
  ∀ (n : Nat) (x : Byte) (s : State),
    (1 ≤ n → n ≤ 64 → exec (.eval n x) s = .next { s with
      result := polyValue (s.bytes .coef n) x, errcode := .noError, busy := false, done := true }) ∧
    (n = 0 ∨ 64 < n → exec (.eval n x) s = .next { s with errcode := .badCount, busy := false, done := true })

/-- R160: for distinct xs, the coefficients are those of the unique polynomial of degree at most n − 1 through the nodes. -/
def Obligations.InterpolationGivesTheUniquePolynomial : Prop :=
  ∀ xs ys c : List Byte, 1 ≤ xs.length → xs.length ≤ 64 → ys.length = xs.length → xs.Nodup → c.length = xs.length →
    ((∀ i, i < xs.length → polyValue c (xs.getD i 0x00#8) = ys.getD i 0x00#8) ↔ c = interpolate xs ys)

/-- INTERP (R163): COEF[0..n-1] gets the interpolant's coefficients for distinct xs, n free bytes otherwise (whatever their
value, log 2); BAD_COUNT unless 1 ≤ n ≤ 64. -/
def Obligations.InterpCompletesInItsThreeCases : Prop :=
  ∀ (n : Nat) (s : State),
    (1 ≤ n → n ≤ 64 → (s.bytes .xs n).Nodup → exec (.interp n) s = .next { s with
      mem := Memory.writeBytes s.mem Window.coef.base (interpolate (s.bytes .xs n) (s.bytes .ys n)),
      errcode := .noError, busy := false, done := true }) ∧
    (1 ≤ n → n ≤ 64 → ¬ (s.bytes .xs n).Nodup → exec (.interp n) s = .next { s with
      mem := Memory.writeBytes s.mem Window.coef.base
        ((List.range n).map fun k => Config.freeByte (s.draws + k)),
      draws := s.draws + n, errcode := .noError, busy := false, done := true }) ∧
    (n = 0 ∨ 64 < n → exec (.interp n) s = .next { s with errcode := .badCount, busy := false, done := true })

/-- R165: `interp n` then `eval n, XS[i]` gives RESULT = YS[i]. -/
def Obligations.InterpThenEvalGivesTheNode : Prop :=
  ∀ (n i : Nat) (s : State), Memory.wf s.mem = true → 1 ≤ n → n ≤ 64 → (s.bytes .xs n).Nodup → i < n →
    ∃ t u, exec (.interp n) s = .next t ∧ exec (.eval n ((s.bytes .xs n).getD i 0x00#8)) t = .next u ∧
      u.result = (s.bytes .ys n).getD i 0x00#8

/-! ### Shuffle -/

/-- SHUFFLE (R182): SEQ[0..n-1] is shuffled with SEED[0..n-1]; BAD_COUNT unless 1 ≤ n ≤ 64. -/
def Obligations.ShuffleCompletesOrBadCount : Prop :=
  ∀ (n : Nat) (s : State),
    (1 ≤ n → n ≤ 64 → exec (.shuffle n) s = .next { s with
      mem := Memory.writeBytes s.mem Window.seq.base (shuffle (s.bytes .seed n) (s.bytes .seq n) n),
      errcode := .noError, busy := false, done := true }) ∧
    (n = 0 ∨ 64 < n → exec (.shuffle n) s = .next { s with errcode := .badCount, busy := false, done := true })

/-- R180: the order of the steps (from n − 1 down to 1): the first swap puts seq[seed[n-1] mod n] last, and the n − 1 bytes before
it are then shuffled; so the result rearranges the sequence, seed[0] is never read, and a seed with seed[i] mod (i + 1) = i leaves
it. -/
def Obligations.ShuffleRearrangesAndIgnoresSeedZero : Prop :=
  ∀ (seed seq : List Byte) (n : Nat), 1 ≤ n → n ≤ 64 → seed.length = n → seq.length = n →
    (2 ≤ n →
      let j := (seed.getD (n - 1) 0x00#8).toNat % n
      shuffle seed seq n =
        shuffle (seed.take (n - 1)) ((seq.set j (seq.getD (n - 1) 0x00#8)).take (n - 1)) (n - 1) ++ [seq.getD j 0x00#8]) ∧
    (shuffle seed seq n).Perm seq ∧
    (∀ b, shuffle (seed.set 0 b) seq n = shuffle seed seq n) ∧
    ((∀ i, i < n → (seed.getD i 0x00#8).toNat % (i + 1) = i) → shuffle seed seq n = seq)

/-! ### Round function, key schedule, block cipher -/

/-- ROUNDF (R192): FOUT <- F(FIN, RK, K2). -/
def Obligations.RoundfCompletes : Prop :=
  ∀ s : State, exec .roundf s = .next { s with
    mem := Memory.writeBytes s.mem Window.fout.base
      (roundFunction (s.buffer .fin) (s.buffer .rk) (s.buffer .k2)),
    errcode := .noError, busy := false, done := true }

/-- R190: F evaluates, at 255 − j, the polynomial through the 64 nodes (shuffled x, half-block or round key plus index). -/
def Obligations.RoundFunctionEvaluatesThePolynomialOfItsNodes : Prop :=
  ∀ h rk k2 : List Byte, h.length = 32 → rk.length = 32 → k2.length = 64 →
    ∃ c : List Byte, c.length = 64 ∧
      (∀ i, i < 64 → polyValue c ((shuffle k2 (identitySeq 64) 64).getD i 0x00#8) =
        (if i < 32 then h.getD i 0x00#8 else rk.getD (i - 32) 0x00#8) + BitVec.ofNat 8 i) ∧
      (roundFunction h rk k2).length = 32 ∧
      (∀ j, j < 32 → (roundFunction h rk k2).getD j 0x00#8 = polyValue c (BitVec.ofNat 8 (255 - j)))

/-- ROUNDF reads FIN, RK and K2[1..63] only (R64, R192: "K2[0] is never read"). -/
def Obligations.RoundfReadsOnlyFinRkAndK2AboveZero : Prop :=
  ∀ s s' : State, Memory.wf s.mem = true → Memory.wf s'.mem = true →
    s.buffer .fin = s'.buffer .fin → s.buffer .rk = s'.buffer .rk → (s.buffer .k2).tail = (s'.buffer .k2).tail →
    ∃ t t', exec .roundf s = .next t ∧ exec .roundf s' = .next t' ∧ t.buffer .fout = t'.buffer .fout

/-- KEYSCHED (R202): KSOUT <- out, K1 <- next, K2 <- k2'. -/
def Obligations.KeyschedCompletes : Prop :=
  ∀ s : State, exec .keysched s = .next { s with
    mem := Memory.writeBytes
      (Memory.writeBytes
        (Memory.writeBytes s.mem Window.ksout.base (keySchedule (s.buffer .k1) (s.buffer .k2)).out)
        Window.k1.base (keySchedule (s.buffer .k1) (s.buffer .k2)).next)
      Window.k2.base (keySchedule (s.buffer .k1) (s.buffer .k2)).k2,
    errcode := .noError, busy := false, done := true }

/-- R200: the key schedule evaluates the polynomial through (i, in[i] + i) at the three windows in shuffled order, and keeps
k2[32..63]. -/
def Obligations.KeyScheduleEvaluatesThePolynomialOfItsNodes : Prop :=
  ∀ input k2 : List Byte, input.length = 32 → k2.length = 64 →
    ∃ c : List Byte, c.length = 32 ∧
      (∀ i, i < 32 → polyValue c (BitVec.ofNat 8 i) = input.getD i 0x00#8 + BitVec.ofNat 8 i) ∧
      (keySchedule input k2).out.length = 32 ∧ (keySchedule input k2).next.length = 32 ∧
      (keySchedule input k2).k2.length = 64 ∧
      (∀ i, i < 32 →
        let sx := (shuffle (k2.take 32) (identitySeq 32) 32).getD i 0x00#8
        (keySchedule input k2).out.getD i 0x00#8 = polyValue c (64#8 + sx) ∧
        (keySchedule input k2).next.getD i 0x00#8 = polyValue c (128#8 + sx) ∧
        (keySchedule input k2).k2.getD i 0x00#8 = polyValue c (192#8 + sx)) ∧
      (∀ i, 32 ≤ i → i < 64 → (keySchedule input k2).k2.getD i 0x00#8 = k2.getD i 0x00#8)

/-- R201: from the zero key state the polynomial is z, so the windows are the shuffled points themselves. -/
def Obligations.KeyScheduleOfZeroGivesTheShuffledPoints : Prop :=
  ∀ k2 : List Byte, k2.length = 64 →
    let sx := shuffle (k2.take 32) (identitySeq 32) 32
    (keySchedule (List.replicate 32 0x00#8) k2).out = sx.map (fun x => 64#8 + x) ∧
    (keySchedule (List.replicate 32 0x00#8) k2).next = sx.map (fun x => 128#8 + x) ∧
    (keySchedule (List.replicate 32 0x00#8) k2).k2 = sx.map (fun x => 192#8 + x) ++ k2.drop 32

/-- KEYSCHED reads K1 and K2[1..31] only (R64, R202: "K2[0] is never read; K2[32..63] is never read"). -/
def Obligations.KeyschedReadsOnlyK1AndK2BelowThirtyTwo : Prop :=
  ∀ s s' : State, Memory.wf s.mem = true → Memory.wf s'.mem = true →
    s.buffer .k1 = s'.buffer .k1 → (s.bytes .k2 32).tail = (s'.bytes .k2 32).tail →
    ∃ t t', exec .keysched s = .next t ∧ exec .keysched s' = .next t' ∧
      t.buffer .ksout = t'.buffer .ksout ∧ t.buffer .k1 = t'.buffer .k1 ∧ t.bytes .k2 32 = t'.bytes .k2 32

/-- ENCBLK (R212): BLOCK, K1 and K2 from `Encrypt`; IV + 1 mod 2^32 when INC = 1, after the block used the old IV (R215). The keys are those of R209; the three rounds of R210, on the halves of BLOCK,
use rk0, rk1, rk2 and the k2 after the third call. -/
def Obligations.EncblkCompletes : Prop :=
  ∀ (inc : Bool) (s : State),
    let keys := blockKeys (s.buffer .k1) (s.buffer .k2) s.iv
    exec (.encblk inc) s = .next { s with
      mem := Memory.writeBytes
        (Memory.writeBytes
          (Memory.writeBytes s.mem Window.block.base (encryptBlock keys (s.buffer .block)))
          Window.k1.base keys.k1)
        Window.k2.base keys.k2,
      iv := if inc then s.iv + 1#32 else s.iv,
      errcode := .noError, busy := false, done := true } ∧
    areBlockKeys (s.buffer .k1) (s.buffer .k2) s.iv keys ∧
    let l0 := (s.buffer .block).take 32
    let r0 := (s.buffer .block).drop 32
    let r1 := feistelHalf keys.k2 l0 r0 keys.rk0
    let r2 := feistelHalf keys.k2 r0 r1 keys.rk1
    let r3 := feistelHalf keys.k2 r1 r2 keys.rk2
    encryptBlock keys (s.buffer .block) = r2 ++ r3

/-- DECBLK (R213): BLOCK, K1 and K2 from `Decrypt`; IV as for ENCBLK. The keys are those of R209; the three rounds of R211, on the halves of BLOCK,
use rk2, rk1, rk0 and the k2 after the third call. -/
def Obligations.DecblkCompletes : Prop :=
  ∀ (inc : Bool) (s : State),
    let keys := blockKeys (s.buffer .k1) (s.buffer .k2) s.iv
    exec (.decblk inc) s = .next { s with
      mem := Memory.writeBytes
        (Memory.writeBytes
          (Memory.writeBytes s.mem Window.block.base (decryptBlock keys (s.buffer .block)))
          Window.k1.base keys.k1)
        Window.k2.base keys.k2,
      iv := if inc then s.iv + 1#32 else s.iv,
      errcode := .noError, busy := false, done := true } ∧
    areBlockKeys (s.buffer .k1) (s.buffer .k2) s.iv keys ∧
    let l0 := (s.buffer .block).take 32
    let r0 := (s.buffer .block).drop 32
    let l1 := feistelHalf keys.k2 r0 l0 keys.rk2
    let l2 := feistelHalf keys.k2 l0 l1 keys.rk1
    let l3 := feistelHalf keys.k2 l1 l2 keys.rk0
    decryptBlock keys (s.buffer .block) = l3 ++ l2

/-- R214: `encblk`, restoring K1, K2 and IV, then `decblk` leaves BLOCK as it started; with either INC. -/
def Obligations.DecryptingAfterEncryptingRestoresTheBlock : Prop :=
  ∀ (inc inc' : Bool) (s : State), Memory.wf s.mem = true →
    ∃ t v, exec (.encblk inc) s = .next t ∧
      exec (.decblk inc') { (t.store .k1 (s.buffer .k1)).store .k2 (s.buffer .k2) with iv := s.iv } = .next v ∧
      v.buffer .block = s.buffer .block

/-- DECBLK evolves K1 and K2 exactly as ENCBLK does from the same K1, K2 and IV, whatever the blocks (R213). -/
def Obligations.EncblkAndDecblkEvolveTheKeyAlike : Prop :=
  ∀ (inc inc' : Bool) (s s' : State), Memory.wf s.mem = true → Memory.wf s'.mem = true →
    s.buffer .k1 = s'.buffer .k1 → s.buffer .k2 = s'.buffer .k2 → s.iv = s'.iv →
    ∃ t t', exec (.encblk inc) s = .next t ∧ exec (.decblk inc') s' = .next t' ∧
      t.buffer .k1 = t'.buffer .k1 ∧ t.buffer .k2 = t'.buffer .k2

/-- R203: after the IV mix, three KEYSCHED commands give the block's round keys in KSOUT and leave K1 and K2 as ENCBLK leaves
them. -/
def Obligations.ThreeKeyschedsGiveTheRoundKeysOfABlock : Prop :=
  ∀ (inc : Bool) (s : State), Memory.wf s.mem = true →
    ∃ t1 t2 t3 t, exec .keysched (s.store .k1 (mixIv (s.buffer .k1) s.iv)) = .next t1 ∧
      exec .keysched t1 = .next t2 ∧ exec .keysched t2 = .next t3 ∧ exec (.encblk inc) s = .next t ∧
      t1.buffer .ksout = (blockKeys (s.buffer .k1) (s.buffer .k2) s.iv).rk0 ∧
      t2.buffer .ksout = (blockKeys (s.buffer .k1) (s.buffer .k2) s.iv).rk1 ∧
      t3.buffer .ksout = (blockKeys (s.buffer .k1) (s.buffer .k2) s.iv).rk2 ∧
      t3.buffer .k1 = t.buffer .k1 ∧ t3.buffer .k2 = t.buffer .k2

/-! ### Frames -/

/-- NOP, the GF commands and EVAL change only RESULT, ERRCODE, BUSY and DONE (NOP not even RESULT): every byte of every window,
IV, CTRL, READY, OVR, CMD, PENDING, the free-value count and the host's side stay (R64). -/
def Obligations.FrameOfCommandsThatStoreNothing : Prop :=
  ∀ (i : Instr) (s t : State), storesNothing i = true → exec i s = .next t →
    t = { s with result := t.result, errcode := t.errcode, busy := t.busy, done := t.done } ∧
    (∀ a, Memory.read t.mem a = Memory.read s.mem a) ∧
    (i = .nop → t.result = s.result)

/-- INTERP and SHUFFLE change only COEF[0..n-1] and SEQ[0..n-1], ERRCODE, BUSY and DONE; INTERP counts free bytes only when two
xs are equal (R64, R163, R182). -/
def Obligations.FrameOfInterpAndShuffle : Prop :=
  ∀ (n : Nat) (s : State),
    (∀ t, exec (.interp n) s = .next t →
      t = { s with mem := t.mem, draws := t.draws, errcode := t.errcode, busy := t.busy, done := t.done } ∧
      (∀ a, a < Window.coef.base ∨ Window.coef.base + n ≤ a → Memory.read t.mem a = Memory.read s.mem a) ∧
      ((s.bytes .xs n).Nodup → t.draws = s.draws)) ∧
    (∀ t, exec (.shuffle n) s = .next t →
      t = { s with mem := t.mem, errcode := t.errcode, busy := t.busy, done := t.done } ∧
      (∀ a, a < Window.seq.base ∨ Window.seq.base + n ≤ a → Memory.read t.mem a = Memory.read s.mem a))

/-- ROUNDF changes only FOUT; KEYSCHED only KSOUT, K1 and K2[0..31]; ENCBLK and DECBLK only BLOCK, K1, K2[0..31] and, with INC,
IV; each also ERRCODE, BUSY and DONE (R64). -/
def Obligations.FrameOfCipherCommands : Prop :=
  ∀ s : State, Memory.wf s.mem = true →
    (∀ t, exec .roundf s = .next t →
      t = { s with mem := t.mem, errcode := t.errcode, busy := t.busy, done := t.done } ∧
      (∀ a, a < Window.fout.base ∨ Window.fout.base + 32 ≤ a → Memory.read t.mem a = Memory.read s.mem a)) ∧
    (∀ t, exec .keysched s = .next t →
      t = { s with mem := t.mem, errcode := t.errcode, busy := t.busy, done := t.done } ∧
      (∀ a, a < Window.ksout.base ∨ Window.ksout.base + 32 ≤ a → a < Window.k1.base ∨ Window.k1.base + 32 ≤ a →
        a < Window.k2.base ∨ Window.k2.base + 32 ≤ a → Memory.read t.mem a = Memory.read s.mem a)) ∧
    (∀ inc t, exec (.encblk inc) s = .next t ∨ exec (.decblk inc) s = .next t →
      t = { s with mem := t.mem, iv := t.iv, errcode := t.errcode, busy := t.busy, done := t.done } ∧
      (inc = false → t.iv = s.iv) ∧
      (∀ a, a < Window.block.base ∨ Window.block.base + 64 ≤ a → a < Window.k1.base ∨ Window.k1.base + 32 ≤ a →
        a < Window.k2.base ∨ Window.k2.base + 32 ≤ a → Memory.read t.mem a = Memory.read s.mem a))

/-! ### Bus accesses -/

/-- R67, R68, R69 (and R70): exactly the accesses at a reserved offset, misaligned, or narrow on a scalar register are refused;
a refused access gives the error response and changes nothing. -/
def Obligations.RefusedAccessesAreAnsweredWithAnErrorAndChangeNothing : Prop :=
  ∀ (off : Nat) (width : Width) (v : Word) (s : State),
    (refusedAccess off width → busRead off width s = (.error, s) ∧ busWrite off width v s = (.error, s)) ∧
    (¬ refusedAccess off width → (∃ d, (busRead off width s).1 = .data d) ∧ (busWrite off width v s).1 = .ack)

/-- The windows are one little-endian byte array (R65, R66): after an aligned write of any width while BUSY = 0, byte k of the
value is at offset + k and every other byte is as before; a read assembles its bytes in the same order, zero-extended
(log 12). -/
def Obligations.WindowAccessesAreLittleEndian : Prop :=
  ∀ (off : Nat) (width : Width) (v : Word) (s : State),
    Memory.wf s.mem = true → s.busy = false → windowOffset off → off % width.bytes = 0 →
    (∃ t, busWrite off width v s = (.ack, t) ∧ t = { s with mem := t.mem } ∧
      (∀ k, k < width.bytes → Memory.read t.mem (off + k) = v.extractLsb' (8 * k) 8) ∧
      (∀ a, a < off ∨ off + width.bytes ≤ a → Memory.read t.mem a = Memory.read s.mem a)) ∧
    (∃ d : Word, busRead off width s = (.data d, s) ∧
      (∀ k, k < width.bytes → d.extractLsb' (8 * k) 8 = Memory.read s.mem (off + k)) ∧
      d.toNat < 2 ^ (8 * width.bytes))

/-- R72: while BUSY = 1 a write to CMD, IV or a window is discarded with OVR <- 1; writes to CTRL and STATUS are performed. -/
def Obligations.WritesWhileBusyAreDiscardedExceptCtrlAndStatus : Prop :=
  ∀ (off : Nat) (width : Width) (v : Word) (s : State), s.busy = true →
    (((off = 0x010 ∨ off = 0x018) ∧ width = .word) ∨ (windowOffset off ∧ off % width.bytes = 0) →
      busWrite off width v s = (.ack, { s with ovr := true })) ∧
    busWrite 0x004 .word v s = (.ack, { s with irqEn := v.getLsbD 0 }) ∧
    busWrite 0x008 .word v s =
      (.ack, { s with done := s.done && !v.getLsbD 2, ovr := s.ovr && !v.getLsbD 4 })

/-- R71: writes to ID, ERRCODE and RESULT and to the read-only bits of STATUS and CTRL are ignored, busy or not, and never set
OVR. -/
def Obligations.WritesToReadOnlyStateAreIgnored : Prop :=
  ∀ (v : Word) (s : State),
    (∀ off, off = 0x000 ∨ off = 0x00C ∨ off = 0x014 → busWrite off .word v s = (.ack, s)) ∧
    (∃ t, busWrite 0x008 .word v s = (.ack, t) ∧ t = { s with done := t.done, ovr := t.ovr } ∧
      (t.ovr = true → s.ovr = true) ∧ ∀ k, k ≠ 2 → k ≠ 4 → t.statusWord.getLsbD k = s.statusWord.getLsbD k) ∧
    (∃ t, busWrite 0x004 .word v s = (.ack, t) ∧ t = { s with irqEn := t.irqEn } ∧
      ∀ k, k ≠ 0 → t.ctrlWord.getLsbD k = false)

/-- R73: while BUSY = 1, ID, CTRL, STATUS, ERRCODE and CMD read true; RESULT, IV and the windows read as free bytes, new ones at
every read (whatever their value, log 2). -/
def Obligations.ReadsWhileBusyAreTrueOrFree : Prop :=
  ∀ (off : Nat) (width : Width) (s : State), s.busy = true →
    busRead 0x000 .word s = (.data 0x4B433301#32, s) ∧
    busRead 0x004 .word s = (.data s.ctrlWord, s) ∧
    busRead 0x008 .word s = (.data s.statusWord, s) ∧
    busRead 0x00C .word s = (.data (s.errcode.toByte.setWidth 32), s) ∧
    busRead 0x010 .word s = (.data s.cmd, s) ∧
    (((off = 0x014 ∨ off = 0x018) ∧ width = .word) ∨ (windowOffset off ∧ off % width.bytes = 0) →
      busRead off width s =
        (.data (littleEndian ((List.range width.bytes).map fun k => Config.freeByte (s.draws + k))),
          { s with draws := s.draws + width.bytes }))

/-- The scalar registers as read while BUSY = 0, and ID always (R24–R30): STATUS bit by bit, ERR = 1 exactly when ERRCODE ≠ 0
(R26); ERRCODE reads the code R231 gives each of the six outcomes. That ERRCODE can hold no other code is the type's (log 10,
DEDUCED from "Codes 0x06–0xFF are never produced"). -/
def Obligations.ScalarRegistersReadAsTheirFields : Prop :=
  ∀ s : State,
    busRead 0x000 .word s = (.data 0x4B433301#32, s) ∧
    (∃ d : Word, busRead 0x004 .word s = (.data d, s) ∧ d.getLsbD 0 = s.irqEn ∧ ∀ k, 1 ≤ k → d.getLsbD k = false) ∧
    (∃ d : Word, busRead 0x008 .word s = (.data d, s) ∧ d.getLsbD 0 = s.busy ∧ d.getLsbD 1 = s.ready ∧
      d.getLsbD 2 = s.done ∧ (d.getLsbD 3 = true ↔ s.errcode ≠ .noError) ∧ d.getLsbD 4 = s.ovr ∧
      ∀ k, 5 ≤ k → d.getLsbD k = false) ∧
    (∃ d : Word, busRead 0x00C .word s = (.data d, s) ∧ (d = 0#32 ↔ s.errcode = .noError) ∧ d.toNat ≤ 5 ∧
      (s.errcode = .noError → d = 0x00000000#32) ∧ (s.errcode = .illegalOp → d = 0x00000001#32) ∧
      (s.errcode = .reservedBits → d = 0x00000002#32) ∧ (s.errcode = .badCount → d = 0x00000003#32) ∧
      (s.errcode = .logZero → d = 0x00000004#32) ∧ (s.errcode = .expRange → d = 0x00000005#32)) ∧
    busRead 0x010 .word s = (.data s.cmd, s) ∧
    (s.busy = false →
      (∃ d : Word, busRead 0x014 .word s = (.data d, s) ∧ d.toNat = s.result.toNat) ∧
      busRead 0x018 .word s = (.data s.iv, s))

/-- No read has a side effect (R74): it changes at most the model's count of free bytes, and nothing at all while BUSY = 0. -/
def Obligations.ReadsHaveNoSideEffect : Prop :=
  ∀ (off : Nat) (width : Width) (s : State), ∃ n,
    (busRead off width s).2 = { s with draws := s.draws + n } ∧ (s.busy = false → n = 0)

/-- What a word write does to the writable scalar registers beside CMD: to STATUS, it clears DONE and OVR where it has a 1 and
changes nothing else (R26); writing 1 to DONE also drops `irq` (R239); to CTRL, it sets IRQ_EN whether or not the engine is busy
(R25); to IV, while BUSY = 0, it sets all 32 bits and nothing else (R22, R30). -/
def Obligations.StatusWritesClearDoneAndOvr : Prop :=
  ∀ (v : Word) (s : State), ∃ t u,
    busWrite 0x008 .word v s = (.ack, t) ∧ t = { s with done := t.done, ovr := t.ovr } ∧
    t.done = (s.done && !v.getLsbD 2) ∧ t.ovr = (s.ovr && !v.getLsbD 4) ∧ (v.getLsbD 2 = true → t.irq = false) ∧
    busWrite 0x004 .word v s = (.ack, u) ∧ u = { s with irqEn := v.getLsbD 0 } ∧
    (s.busy = false → busWrite 0x018 .word v s = (.ack, { s with iv := v }))

/-- `irq` (R240): the level IRQ_EN and DONE; a completion raises it when enabled, an acceptance drops it, initialisation and a
discarded write leave it. -/
def Obligations.IrqFollowsCompletion : Prop :=
  ∀ (s : State) (w : Word),
    (s.irq = true ↔ s.irqEn = true ∧ s.done = true) ∧
    (s.running → ∃ t, engineTurn s = .next t ∧ t.irq = s.irqEn) ∧
    (accept w s).irq = false ∧ (initialise s).irq = s.irq ∧ (discardWrite s).irq = s.irq

/-! ### The host's turn -/

/-- While BUSY = 1 no host access changes the command, its inputs or its results: CMD, PENDING, IV, RESULT, ERRCODE, BUSY, READY
and every window byte stay (R72, R79). -/
def Obligations.HostCannotChangeARunningCommand : Prop :=
  ∀ s : State, s.busy = true →
    (hostTurn s).cmd = s.cmd ∧ (hostTurn s).pending = s.pending ∧ (hostTurn s).iv = s.iv ∧
    (hostTurn s).result = s.result ∧ (hostTurn s).errcode = s.errcode ∧ (hostTurn s).busy = true ∧
    (hostTurn s).ready = s.ready ∧ (hostTurn s).mem = s.mem

/-- The host's turn makes its next access and records the answer (log 3); `wait` (R101) reads STATUS once a turn (log 17) and
stays the host's next operation until BUSY = 0; a host with nothing left does nothing (log 21). -/
def Obligations.HostTurnMakesTheNextAccess : Prop :=
  (∀ (s : State) (turns : List Turn), s.turns = .host :: turns → step s = .next (hostTurn { s with turns := turns })) ∧
  (∀ (s : State) (off : Nat) (width : Width) (rest : List HostOp), s.host = .read off width :: rest →
    ∃ r t, busRead off width s = (r, t) ∧ hostTurn s = { t with host := rest, responses := s.responses ++ [r] }) ∧
  (∀ (s : State) (off : Nat) (width : Width) (v : Word) (rest : List HostOp), s.host = .write off width v :: rest →
    ∃ r t, busWrite off width v s = (r, t) ∧ hostTurn s = { t with host := rest, responses := s.responses ++ [r] }) ∧
  (∀ (s : State) (rest : List HostOp), s.host = .wait :: rest →
    hostTurn s = { s with
      host := if s.busy then .wait :: rest else rest,
      responses := s.responses ++ [.data s.statusWord] }) ∧
  (∀ s : State, s.host = [] → hostTurn s = s)

/-! ### Reset and initialisation -/

/-- Reset (R260): every scalar register and every window byte at its reset value, and the reset input takes a core in any
condition to it, abandoning a running command. What stays of the host's side is the model's choice (log 16). -/
def Obligations.ResetGivesTheResetValues : Prop :=
  (∀ t : State, (t = State.reset ∨ ∃ s, t = resetCore s) →
    t.scalarValue .id = 0x4B433301#32 ∧ t.scalarValue .ctrl = 0x00000000#32 ∧
    t.scalarValue .status = 0x00000001#32 ∧ t.scalarValue .errcode = 0x00000000#32 ∧
    t.scalarValue .cmd = 0x00000000#32 ∧ t.pending = 0x00000000#32 ∧ t.scalarValue .result = 0x00000000#32 ∧
    t.scalarValue .iv = 0x00000000#32 ∧ (∀ a, Memory.read t.mem a = 0x00#8) ∧ t.irq = false) ∧
  (∀ (s : State) (turns : List Turn), s.turns = .reset :: turns →
    step s = .next (resetCore { s with turns := turns }))

/-- The engine's turn while initialising builds the tables, clears BUSY and sets READY and nothing else (R262); an idle engine
does nothing (R255). That the very first step from reset, with nothing placed, is that turn is the model's choice (log 3, log 5): in
the spec host accesses may come before it. -/
def Obligations.InitialisationIsTheFirstStep : Prop :=
  (∀ s : State, s.initialising → engineTurn s = .next { s with busy := false, ready := true }) ∧
  step State.reset = .next { State.reset with busy := false, ready := true } ∧
  (∀ s : State, s.idle → engineTurn s = .next s)

/-! ### Invariants and whole-machine rules -/

/-- The invariant holds right after reset. -/
def Obligations.InvariantHoldsAtReset : Prop :=
  State.reset.Inv

/-- Every step keeps the invariant: canonical memory listing window bytes only, one of the three conditions of R120, no DONE and
no error while BUSY, PENDING = CMD while running (R40), reset values until initialisation ends. -/
def Obligations.EveryStepKeepsTheInvariant : Prop :=
  ∀ s t : State, s.Inv → step s = .next t → t.Inv

/-- READY, once 1, is cleared by reset only (R26). -/
def Obligations.ReadyIsClearedByResetOnly : Prop :=
  ∀ s t : State, step s = .next t → s.ready = true → t.ready = false → ∃ rest, s.turns = .reset :: rest

/-- OVR, once 1, is cleared by reset or by a host write of 1 to STATUS bit 4 only (R26, R236). -/
def Obligations.OvrIsClearedByResetOrByTheHostOnly : Prop :=
  ∀ s t : State, step s = .next t → s.ovr = true → t.ovr = false →
    (∃ rest, s.turns = .reset :: rest) ∨
    (((∃ rest, s.turns = .host :: rest) ∨ (s.turns = [] ∧ s.busy = false)) ∧
      ∃ v rest, s.host = .write 0x008 .word v :: rest ∧ v.getLsbD 4 = true)

/-- RESULT changes only by reset or by the completion without error of GFADD, GFMUL, GFDIV, GFLOG, GFEXP or EVAL (R29). -/
def Obligations.ResultChangesOnlyByResetOrByItsCommands : Prop :=
  ∀ s t : State, step s = .next t → t.result ≠ s.result →
    (∃ rest, s.turns = .reset :: rest) ∨
    (s.running ∧ ((∃ rest, s.turns = .engine :: rest) ∨ s.turns = []) ∧ t.errcode = .noError ∧
      ∃ i, decode s.pending = .ok i ∧ writesResult i = true)
end

