-- ==== Sys2Proof/Laws/State.lean ====
section
/-! SUPPORT. One lemma per field per update of the state, so that no proof unfolds a record update. -/

namespace Sys2Proof.Machine

/-! ### State.store -/

@[simp] theorem State.store_irqEn (s : State) (w : Window) (bs : List Byte) : (s.store w bs).irqEn = s.irqEn := rfl
@[simp] theorem State.store_busy (s : State) (w : Window) (bs : List Byte) : (s.store w bs).busy = s.busy := rfl
@[simp] theorem State.store_ready (s : State) (w : Window) (bs : List Byte) : (s.store w bs).ready = s.ready := rfl
@[simp] theorem State.store_done (s : State) (w : Window) (bs : List Byte) : (s.store w bs).done = s.done := rfl
@[simp] theorem State.store_ovr (s : State) (w : Window) (bs : List Byte) : (s.store w bs).ovr = s.ovr := rfl
@[simp] theorem State.store_errcode (s : State) (w : Window) (bs : List Byte) : (s.store w bs).errcode = s.errcode := rfl
@[simp] theorem State.store_cmd (s : State) (w : Window) (bs : List Byte) : (s.store w bs).cmd = s.cmd := rfl
@[simp] theorem State.store_pending (s : State) (w : Window) (bs : List Byte) : (s.store w bs).pending = s.pending := rfl
@[simp] theorem State.store_result (s : State) (w : Window) (bs : List Byte) : (s.store w bs).result = s.result := rfl
@[simp] theorem State.store_iv (s : State) (w : Window) (bs : List Byte) : (s.store w bs).iv = s.iv := rfl
@[simp] theorem State.store_mem (s : State) (w : Window) (bs : List Byte) : (s.store w bs).mem = Memory.writeBytes s.mem w.base bs := rfl
@[simp] theorem State.store_host (s : State) (w : Window) (bs : List Byte) : (s.store w bs).host = s.host := rfl
@[simp] theorem State.store_turns (s : State) (w : Window) (bs : List Byte) : (s.store w bs).turns = s.turns := rfl
@[simp] theorem State.store_responses (s : State) (w : Window) (bs : List Byte) : (s.store w bs).responses = s.responses := rfl
@[simp] theorem State.store_draws (s : State) (w : Window) (bs : List Byte) : (s.store w bs).draws = s.draws := rfl

/-! ### State.setResult -/

@[simp] theorem State.setResult_irqEn (s : State) (v : Byte) : (s.setResult v).irqEn = s.irqEn := rfl
@[simp] theorem State.setResult_busy (s : State) (v : Byte) : (s.setResult v).busy = s.busy := rfl
@[simp] theorem State.setResult_ready (s : State) (v : Byte) : (s.setResult v).ready = s.ready := rfl
@[simp] theorem State.setResult_done (s : State) (v : Byte) : (s.setResult v).done = s.done := rfl
@[simp] theorem State.setResult_ovr (s : State) (v : Byte) : (s.setResult v).ovr = s.ovr := rfl
@[simp] theorem State.setResult_errcode (s : State) (v : Byte) : (s.setResult v).errcode = s.errcode := rfl
@[simp] theorem State.setResult_cmd (s : State) (v : Byte) : (s.setResult v).cmd = s.cmd := rfl
@[simp] theorem State.setResult_pending (s : State) (v : Byte) : (s.setResult v).pending = s.pending := rfl
@[simp] theorem State.setResult_result (s : State) (v : Byte) : (s.setResult v).result = v := rfl
@[simp] theorem State.setResult_iv (s : State) (v : Byte) : (s.setResult v).iv = s.iv := rfl
@[simp] theorem State.setResult_mem (s : State) (v : Byte) : (s.setResult v).mem = s.mem := rfl
@[simp] theorem State.setResult_host (s : State) (v : Byte) : (s.setResult v).host = s.host := rfl
@[simp] theorem State.setResult_turns (s : State) (v : Byte) : (s.setResult v).turns = s.turns := rfl
@[simp] theorem State.setResult_responses (s : State) (v : Byte) : (s.setResult v).responses = s.responses := rfl
@[simp] theorem State.setResult_draws (s : State) (v : Byte) : (s.setResult v).draws = s.draws := rfl

/-! ### drawBytes_snd -/

@[simp] theorem drawBytes_snd_irqEn (n : Nat) (s : State) : (drawBytes n s).2.irqEn = s.irqEn := rfl
@[simp] theorem drawBytes_snd_busy (n : Nat) (s : State) : (drawBytes n s).2.busy = s.busy := rfl
@[simp] theorem drawBytes_snd_ready (n : Nat) (s : State) : (drawBytes n s).2.ready = s.ready := rfl
@[simp] theorem drawBytes_snd_done (n : Nat) (s : State) : (drawBytes n s).2.done = s.done := rfl
@[simp] theorem drawBytes_snd_ovr (n : Nat) (s : State) : (drawBytes n s).2.ovr = s.ovr := rfl
@[simp] theorem drawBytes_snd_errcode (n : Nat) (s : State) : (drawBytes n s).2.errcode = s.errcode := rfl
@[simp] theorem drawBytes_snd_cmd (n : Nat) (s : State) : (drawBytes n s).2.cmd = s.cmd := rfl
@[simp] theorem drawBytes_snd_pending (n : Nat) (s : State) : (drawBytes n s).2.pending = s.pending := rfl
@[simp] theorem drawBytes_snd_result (n : Nat) (s : State) : (drawBytes n s).2.result = s.result := rfl
@[simp] theorem drawBytes_snd_iv (n : Nat) (s : State) : (drawBytes n s).2.iv = s.iv := rfl
@[simp] theorem drawBytes_snd_mem (n : Nat) (s : State) : (drawBytes n s).2.mem = s.mem := rfl
@[simp] theorem drawBytes_snd_host (n : Nat) (s : State) : (drawBytes n s).2.host = s.host := rfl
@[simp] theorem drawBytes_snd_turns (n : Nat) (s : State) : (drawBytes n s).2.turns = s.turns := rfl
@[simp] theorem drawBytes_snd_responses (n : Nat) (s : State) : (drawBytes n s).2.responses = s.responses := rfl
@[simp] theorem drawBytes_snd_draws (n : Nat) (s : State) : (drawBytes n s).2.draws = s.draws + n := rfl

/-! ### accept -/

@[simp] theorem accept_irqEn (w : Word) (s : State) : (accept w s).irqEn = s.irqEn := rfl
@[simp] theorem accept_busy (w : Word) (s : State) : (accept w s).busy = true := rfl
@[simp] theorem accept_ready (w : Word) (s : State) : (accept w s).ready = s.ready := rfl
@[simp] theorem accept_done (w : Word) (s : State) : (accept w s).done = false := rfl
@[simp] theorem accept_ovr (w : Word) (s : State) : (accept w s).ovr = s.ovr := rfl
@[simp] theorem accept_errcode (w : Word) (s : State) : (accept w s).errcode = .noError := rfl
@[simp] theorem accept_cmd (w : Word) (s : State) : (accept w s).cmd = w := rfl
@[simp] theorem accept_pending (w : Word) (s : State) : (accept w s).pending = w := rfl
@[simp] theorem accept_result (w : Word) (s : State) : (accept w s).result = s.result := rfl
@[simp] theorem accept_iv (w : Word) (s : State) : (accept w s).iv = s.iv := rfl
@[simp] theorem accept_mem (w : Word) (s : State) : (accept w s).mem = s.mem := rfl
@[simp] theorem accept_host (w : Word) (s : State) : (accept w s).host = s.host := rfl
@[simp] theorem accept_turns (w : Word) (s : State) : (accept w s).turns = s.turns := rfl
@[simp] theorem accept_responses (w : Word) (s : State) : (accept w s).responses = s.responses := rfl
@[simp] theorem accept_draws (w : Word) (s : State) : (accept w s).draws = s.draws := rfl

/-! ### finish -/

@[simp] theorem finish_irqEn (code : ErrCode) (s : State) : (finish code s).irqEn = s.irqEn := rfl
@[simp] theorem finish_busy (code : ErrCode) (s : State) : (finish code s).busy = false := rfl
@[simp] theorem finish_ready (code : ErrCode) (s : State) : (finish code s).ready = s.ready := rfl
@[simp] theorem finish_done (code : ErrCode) (s : State) : (finish code s).done = true := rfl
@[simp] theorem finish_ovr (code : ErrCode) (s : State) : (finish code s).ovr = s.ovr := rfl
@[simp] theorem finish_errcode (code : ErrCode) (s : State) : (finish code s).errcode = code := rfl
@[simp] theorem finish_cmd (code : ErrCode) (s : State) : (finish code s).cmd = s.cmd := rfl
@[simp] theorem finish_pending (code : ErrCode) (s : State) : (finish code s).pending = s.pending := rfl
@[simp] theorem finish_result (code : ErrCode) (s : State) : (finish code s).result = s.result := rfl
@[simp] theorem finish_iv (code : ErrCode) (s : State) : (finish code s).iv = s.iv := rfl
@[simp] theorem finish_mem (code : ErrCode) (s : State) : (finish code s).mem = s.mem := rfl
@[simp] theorem finish_host (code : ErrCode) (s : State) : (finish code s).host = s.host := rfl
@[simp] theorem finish_turns (code : ErrCode) (s : State) : (finish code s).turns = s.turns := rfl
@[simp] theorem finish_responses (code : ErrCode) (s : State) : (finish code s).responses = s.responses := rfl
@[simp] theorem finish_draws (code : ErrCode) (s : State) : (finish code s).draws = s.draws := rfl

/-! ### complete -/

@[simp] theorem complete_irqEn (s : State) : (complete s).irqEn = s.irqEn := rfl
@[simp] theorem complete_busy (s : State) : (complete s).busy = false := rfl
@[simp] theorem complete_ready (s : State) : (complete s).ready = s.ready := rfl
@[simp] theorem complete_done (s : State) : (complete s).done = true := rfl
@[simp] theorem complete_ovr (s : State) : (complete s).ovr = s.ovr := rfl
@[simp] theorem complete_errcode (s : State) : (complete s).errcode = .noError := rfl
@[simp] theorem complete_cmd (s : State) : (complete s).cmd = s.cmd := rfl
@[simp] theorem complete_pending (s : State) : (complete s).pending = s.pending := rfl
@[simp] theorem complete_result (s : State) : (complete s).result = s.result := rfl
@[simp] theorem complete_iv (s : State) : (complete s).iv = s.iv := rfl
@[simp] theorem complete_mem (s : State) : (complete s).mem = s.mem := rfl
@[simp] theorem complete_host (s : State) : (complete s).host = s.host := rfl
@[simp] theorem complete_turns (s : State) : (complete s).turns = s.turns := rfl
@[simp] theorem complete_responses (s : State) : (complete s).responses = s.responses := rfl
@[simp] theorem complete_draws (s : State) : (complete s).draws = s.draws := rfl

/-! ### raiseCmdError -/

@[simp] theorem raiseCmdError_irqEn (code : ErrCode) (s : State) : (raiseCmdError code s).irqEn = s.irqEn := rfl
@[simp] theorem raiseCmdError_busy (code : ErrCode) (s : State) : (raiseCmdError code s).busy = false := rfl
@[simp] theorem raiseCmdError_ready (code : ErrCode) (s : State) : (raiseCmdError code s).ready = s.ready := rfl
@[simp] theorem raiseCmdError_done (code : ErrCode) (s : State) : (raiseCmdError code s).done = true := rfl
@[simp] theorem raiseCmdError_ovr (code : ErrCode) (s : State) : (raiseCmdError code s).ovr = s.ovr := rfl
@[simp] theorem raiseCmdError_errcode (code : ErrCode) (s : State) : (raiseCmdError code s).errcode = code := rfl
@[simp] theorem raiseCmdError_cmd (code : ErrCode) (s : State) : (raiseCmdError code s).cmd = s.cmd := rfl
@[simp] theorem raiseCmdError_pending (code : ErrCode) (s : State) : (raiseCmdError code s).pending = s.pending := rfl
@[simp] theorem raiseCmdError_result (code : ErrCode) (s : State) : (raiseCmdError code s).result = s.result := rfl
@[simp] theorem raiseCmdError_iv (code : ErrCode) (s : State) : (raiseCmdError code s).iv = s.iv := rfl
@[simp] theorem raiseCmdError_mem (code : ErrCode) (s : State) : (raiseCmdError code s).mem = s.mem := rfl
@[simp] theorem raiseCmdError_host (code : ErrCode) (s : State) : (raiseCmdError code s).host = s.host := rfl
@[simp] theorem raiseCmdError_turns (code : ErrCode) (s : State) : (raiseCmdError code s).turns = s.turns := rfl
@[simp] theorem raiseCmdError_responses (code : ErrCode) (s : State) : (raiseCmdError code s).responses = s.responses := rfl
@[simp] theorem raiseCmdError_draws (code : ErrCode) (s : State) : (raiseCmdError code s).draws = s.draws := rfl

/-! ### discardWrite -/

@[simp] theorem discardWrite_irqEn (s : State) : (discardWrite s).irqEn = s.irqEn := rfl
@[simp] theorem discardWrite_busy (s : State) : (discardWrite s).busy = s.busy := rfl
@[simp] theorem discardWrite_ready (s : State) : (discardWrite s).ready = s.ready := rfl
@[simp] theorem discardWrite_done (s : State) : (discardWrite s).done = s.done := rfl
@[simp] theorem discardWrite_ovr (s : State) : (discardWrite s).ovr = true := rfl
@[simp] theorem discardWrite_errcode (s : State) : (discardWrite s).errcode = s.errcode := rfl
@[simp] theorem discardWrite_cmd (s : State) : (discardWrite s).cmd = s.cmd := rfl
@[simp] theorem discardWrite_pending (s : State) : (discardWrite s).pending = s.pending := rfl
@[simp] theorem discardWrite_result (s : State) : (discardWrite s).result = s.result := rfl
@[simp] theorem discardWrite_iv (s : State) : (discardWrite s).iv = s.iv := rfl
@[simp] theorem discardWrite_mem (s : State) : (discardWrite s).mem = s.mem := rfl
@[simp] theorem discardWrite_host (s : State) : (discardWrite s).host = s.host := rfl
@[simp] theorem discardWrite_turns (s : State) : (discardWrite s).turns = s.turns := rfl
@[simp] theorem discardWrite_responses (s : State) : (discardWrite s).responses = s.responses := rfl
@[simp] theorem discardWrite_draws (s : State) : (discardWrite s).draws = s.draws := rfl

/-! ### initialise -/

@[simp] theorem initialise_irqEn (s : State) : (initialise s).irqEn = s.irqEn := rfl
@[simp] theorem initialise_busy (s : State) : (initialise s).busy = false := rfl
@[simp] theorem initialise_ready (s : State) : (initialise s).ready = true := rfl
@[simp] theorem initialise_done (s : State) : (initialise s).done = s.done := rfl
@[simp] theorem initialise_ovr (s : State) : (initialise s).ovr = s.ovr := rfl
@[simp] theorem initialise_errcode (s : State) : (initialise s).errcode = s.errcode := rfl
@[simp] theorem initialise_cmd (s : State) : (initialise s).cmd = s.cmd := rfl
@[simp] theorem initialise_pending (s : State) : (initialise s).pending = s.pending := rfl
@[simp] theorem initialise_result (s : State) : (initialise s).result = s.result := rfl
@[simp] theorem initialise_iv (s : State) : (initialise s).iv = s.iv := rfl
@[simp] theorem initialise_mem (s : State) : (initialise s).mem = s.mem := rfl
@[simp] theorem initialise_host (s : State) : (initialise s).host = s.host := rfl
@[simp] theorem initialise_turns (s : State) : (initialise s).turns = s.turns := rfl
@[simp] theorem initialise_responses (s : State) : (initialise s).responses = s.responses := rfl
@[simp] theorem initialise_draws (s : State) : (initialise s).draws = s.draws := rfl

/-! ### writeStatus -/

@[simp] theorem writeStatus_irqEn (v : Word) (s : State) : (writeStatus v s).irqEn = s.irqEn := rfl
@[simp] theorem writeStatus_busy (v : Word) (s : State) : (writeStatus v s).busy = s.busy := rfl
@[simp] theorem writeStatus_ready (v : Word) (s : State) : (writeStatus v s).ready = s.ready := rfl
@[simp] theorem writeStatus_done (v : Word) (s : State) : (writeStatus v s).done = (s.done && !v.getLsbD 2) := rfl
@[simp] theorem writeStatus_ovr (v : Word) (s : State) : (writeStatus v s).ovr = (s.ovr && !v.getLsbD 4) := rfl
@[simp] theorem writeStatus_errcode (v : Word) (s : State) : (writeStatus v s).errcode = s.errcode := rfl
@[simp] theorem writeStatus_cmd (v : Word) (s : State) : (writeStatus v s).cmd = s.cmd := rfl
@[simp] theorem writeStatus_pending (v : Word) (s : State) : (writeStatus v s).pending = s.pending := rfl
@[simp] theorem writeStatus_result (v : Word) (s : State) : (writeStatus v s).result = s.result := rfl
@[simp] theorem writeStatus_iv (v : Word) (s : State) : (writeStatus v s).iv = s.iv := rfl
@[simp] theorem writeStatus_mem (v : Word) (s : State) : (writeStatus v s).mem = s.mem := rfl
@[simp] theorem writeStatus_host (v : Word) (s : State) : (writeStatus v s).host = s.host := rfl
@[simp] theorem writeStatus_turns (v : Word) (s : State) : (writeStatus v s).turns = s.turns := rfl
@[simp] theorem writeStatus_responses (v : Word) (s : State) : (writeStatus v s).responses = s.responses := rfl
@[simp] theorem writeStatus_draws (v : Word) (s : State) : (writeStatus v s).draws = s.draws := rfl

/-! ### writeCtrl -/

@[simp] theorem writeCtrl_irqEn (v : Word) (s : State) : (writeCtrl v s).irqEn = v.getLsbD 0 := rfl
@[simp] theorem writeCtrl_busy (v : Word) (s : State) : (writeCtrl v s).busy = s.busy := rfl
@[simp] theorem writeCtrl_ready (v : Word) (s : State) : (writeCtrl v s).ready = s.ready := rfl
@[simp] theorem writeCtrl_done (v : Word) (s : State) : (writeCtrl v s).done = s.done := rfl
@[simp] theorem writeCtrl_ovr (v : Word) (s : State) : (writeCtrl v s).ovr = s.ovr := rfl
@[simp] theorem writeCtrl_errcode (v : Word) (s : State) : (writeCtrl v s).errcode = s.errcode := rfl
@[simp] theorem writeCtrl_cmd (v : Word) (s : State) : (writeCtrl v s).cmd = s.cmd := rfl
@[simp] theorem writeCtrl_pending (v : Word) (s : State) : (writeCtrl v s).pending = s.pending := rfl
@[simp] theorem writeCtrl_result (v : Word) (s : State) : (writeCtrl v s).result = s.result := rfl
@[simp] theorem writeCtrl_iv (v : Word) (s : State) : (writeCtrl v s).iv = s.iv := rfl
@[simp] theorem writeCtrl_mem (v : Word) (s : State) : (writeCtrl v s).mem = s.mem := rfl
@[simp] theorem writeCtrl_host (v : Word) (s : State) : (writeCtrl v s).host = s.host := rfl
@[simp] theorem writeCtrl_turns (v : Word) (s : State) : (writeCtrl v s).turns = s.turns := rfl
@[simp] theorem writeCtrl_responses (v : Word) (s : State) : (writeCtrl v s).responses = s.responses := rfl
@[simp] theorem writeCtrl_draws (v : Word) (s : State) : (writeCtrl v s).draws = s.draws := rfl

/-! ### State.respond -/

@[simp] theorem State.respond_irqEn (s : State) (r : BusResponse) : (s.respond r).irqEn = s.irqEn := rfl
@[simp] theorem State.respond_busy (s : State) (r : BusResponse) : (s.respond r).busy = s.busy := rfl
@[simp] theorem State.respond_ready (s : State) (r : BusResponse) : (s.respond r).ready = s.ready := rfl
@[simp] theorem State.respond_done (s : State) (r : BusResponse) : (s.respond r).done = s.done := rfl
@[simp] theorem State.respond_ovr (s : State) (r : BusResponse) : (s.respond r).ovr = s.ovr := rfl
@[simp] theorem State.respond_errcode (s : State) (r : BusResponse) : (s.respond r).errcode = s.errcode := rfl
@[simp] theorem State.respond_cmd (s : State) (r : BusResponse) : (s.respond r).cmd = s.cmd := rfl
@[simp] theorem State.respond_pending (s : State) (r : BusResponse) : (s.respond r).pending = s.pending := rfl
@[simp] theorem State.respond_result (s : State) (r : BusResponse) : (s.respond r).result = s.result := rfl
@[simp] theorem State.respond_iv (s : State) (r : BusResponse) : (s.respond r).iv = s.iv := rfl
@[simp] theorem State.respond_mem (s : State) (r : BusResponse) : (s.respond r).mem = s.mem := rfl
@[simp] theorem State.respond_host (s : State) (r : BusResponse) : (s.respond r).host = s.host := rfl
@[simp] theorem State.respond_turns (s : State) (r : BusResponse) : (s.respond r).turns = s.turns := rfl
@[simp] theorem State.respond_responses (s : State) (r : BusResponse) : (s.respond r).responses = s.responses ++ [r] := rfl
@[simp] theorem State.respond_draws (s : State) (r : BusResponse) : (s.respond r).draws = s.draws := rfl

/-! ### resetCore -/

@[simp] theorem resetCore_irqEn (s : State) : (resetCore s).irqEn = false := rfl
@[simp] theorem resetCore_busy (s : State) : (resetCore s).busy = true := rfl
@[simp] theorem resetCore_ready (s : State) : (resetCore s).ready = false := rfl
@[simp] theorem resetCore_done (s : State) : (resetCore s).done = false := rfl
@[simp] theorem resetCore_ovr (s : State) : (resetCore s).ovr = false := rfl
@[simp] theorem resetCore_errcode (s : State) : (resetCore s).errcode = .noError := rfl
@[simp] theorem resetCore_cmd (s : State) : (resetCore s).cmd = 0x00000000#32 := rfl
@[simp] theorem resetCore_pending (s : State) : (resetCore s).pending = 0x00000000#32 := rfl
@[simp] theorem resetCore_result (s : State) : (resetCore s).result = 0x00#8 := rfl
@[simp] theorem resetCore_iv (s : State) : (resetCore s).iv = 0x00000000#32 := rfl
@[simp] theorem resetCore_mem (s : State) : (resetCore s).mem = [] := rfl
@[simp] theorem resetCore_host (s : State) : (resetCore s).host = s.host := rfl
@[simp] theorem resetCore_turns (s : State) : (resetCore s).turns = s.turns := rfl
@[simp] theorem resetCore_responses (s : State) : (resetCore s).responses = s.responses := rfl
@[simp] theorem resetCore_draws (s : State) : (resetCore s).draws = s.draws := rfl

/-! ### State.withFetchWord -/

@[simp] theorem State.withFetchWord_irqEn (s : State) (nbits w : Nat) : (s.withFetchWord nbits w).irqEn = s.irqEn := rfl
@[simp] theorem State.withFetchWord_busy (s : State) (nbits w : Nat) : (s.withFetchWord nbits w).busy = true := rfl
@[simp] theorem State.withFetchWord_ready (s : State) (nbits w : Nat) : (s.withFetchWord nbits w).ready = true := rfl
@[simp] theorem State.withFetchWord_done (s : State) (nbits w : Nat) : (s.withFetchWord nbits w).done = false := rfl
@[simp] theorem State.withFetchWord_ovr (s : State) (nbits w : Nat) : (s.withFetchWord nbits w).ovr = s.ovr := rfl
@[simp] theorem State.withFetchWord_errcode (s : State) (nbits w : Nat) : (s.withFetchWord nbits w).errcode = .noError := rfl
@[simp] theorem State.withFetchWord_cmd (s : State) (nbits w : Nat) : (s.withFetchWord nbits w).cmd = BitVec.ofNat 32 (w % 2 ^ nbits) := rfl
@[simp] theorem State.withFetchWord_pending (s : State) (nbits w : Nat) : (s.withFetchWord nbits w).pending = BitVec.ofNat 32 (w % 2 ^ nbits) := rfl
@[simp] theorem State.withFetchWord_result (s : State) (nbits w : Nat) : (s.withFetchWord nbits w).result = s.result := rfl
@[simp] theorem State.withFetchWord_iv (s : State) (nbits w : Nat) : (s.withFetchWord nbits w).iv = s.iv := rfl
@[simp] theorem State.withFetchWord_mem (s : State) (nbits w : Nat) : (s.withFetchWord nbits w).mem = s.mem := rfl
@[simp] theorem State.withFetchWord_host (s : State) (nbits w : Nat) : (s.withFetchWord nbits w).host = s.host := rfl
@[simp] theorem State.withFetchWord_turns (s : State) (nbits w : Nat) : (s.withFetchWord nbits w).turns = .engine :: s.turns := rfl
@[simp] theorem State.withFetchWord_responses (s : State) (nbits w : Nat) : (s.withFetchWord nbits w).responses = s.responses := rfl
@[simp] theorem State.withFetchWord_draws (s : State) (nbits w : Nat) : (s.withFetchWord nbits w).draws = s.draws := rfl

/-! ### State.bumpIv -/

@[simp] theorem State.bumpIv_irqEn (s : State) (inc : Bool) : (s.bumpIv inc).irqEn = s.irqEn := by
  cases inc <;> rfl
@[simp] theorem State.bumpIv_busy (s : State) (inc : Bool) : (s.bumpIv inc).busy = s.busy := by
  cases inc <;> rfl
@[simp] theorem State.bumpIv_ready (s : State) (inc : Bool) : (s.bumpIv inc).ready = s.ready := by
  cases inc <;> rfl
@[simp] theorem State.bumpIv_done (s : State) (inc : Bool) : (s.bumpIv inc).done = s.done := by
  cases inc <;> rfl
@[simp] theorem State.bumpIv_ovr (s : State) (inc : Bool) : (s.bumpIv inc).ovr = s.ovr := by
  cases inc <;> rfl
@[simp] theorem State.bumpIv_errcode (s : State) (inc : Bool) : (s.bumpIv inc).errcode = s.errcode := by
  cases inc <;> rfl
@[simp] theorem State.bumpIv_cmd (s : State) (inc : Bool) : (s.bumpIv inc).cmd = s.cmd := by
  cases inc <;> rfl
@[simp] theorem State.bumpIv_pending (s : State) (inc : Bool) : (s.bumpIv inc).pending = s.pending := by
  cases inc <;> rfl
@[simp] theorem State.bumpIv_result (s : State) (inc : Bool) : (s.bumpIv inc).result = s.result := by
  cases inc <;> rfl
@[simp] theorem State.bumpIv_iv (s : State) (inc : Bool) : (s.bumpIv inc).iv = if inc then s.iv + 1#32 else s.iv := by
  cases inc <;> rfl
@[simp] theorem State.bumpIv_mem (s : State) (inc : Bool) : (s.bumpIv inc).mem = s.mem := by
  cases inc <;> rfl
@[simp] theorem State.bumpIv_host (s : State) (inc : Bool) : (s.bumpIv inc).host = s.host := by
  cases inc <;> rfl
@[simp] theorem State.bumpIv_turns (s : State) (inc : Bool) : (s.bumpIv inc).turns = s.turns := by
  cases inc <;> rfl
@[simp] theorem State.bumpIv_responses (s : State) (inc : Bool) : (s.bumpIv inc).responses = s.responses := by
  cases inc <;> rfl
@[simp] theorem State.bumpIv_draws (s : State) (inc : Bool) : (s.bumpIv inc).draws = s.draws := by
  cases inc <;> rfl

/-! ### Whole updates that agree -/

@[simp] theorem drawBytes_fst (n : Nat) (s : State) :
    (drawBytes n s).1 = (List.range n).map fun k => Config.freeByte (s.draws + k) := rfl

@[simp] theorem checked_noError (effect : State → State) (s : State) :
    checked .noError effect s = complete (effect s) := rfl

/-- A flag's word has the flag at its bit and 0 elsewhere. -/
theorem getLsbD_flagBit (flag : Bool) {k : Nat} (hk : k < 32) (i : Nat) :
    (flagBit flag k).getLsbD i = (decide (i = k) && flag) := by
  by_cases h : i = k
  · subst h
    simp [flagBit, hk]
  · by_cases hi : i < 32
    · by_cases hlt : i < k
      · simp [flagBit, hlt, h]
      · simp [flagBit, hi, hlt, h, show i - k ≠ 0 by omega]
    · simp [flagBit, hi, h]

/-- A failed operand check is the command error and nothing else (R123). -/
theorem checked_error {code : ErrCode} (h : code ≠ .noError) (effect : State → State) (s : State) :
    checked code effect s = raiseCmdError code s := by
  cases code <;> first | rfl | exact absurd rfl h

end Sys2Proof.Machine
end

