-- ==== Sys2Proof/Laws/Bus.lean ====
section
/-! SUPPORT. What the register map and the access checks can answer, said once. -/

namespace Sys2Proof.Machine

/-- Beyond the last window every offset is reserved. -/
theorem targetAt_beyond {off : Nat} (h : 0x2C0 ≤ off) : targetAt off = none := by
  have hn : registerMap.find? (fun r => decide (r.1 ≤ off) && decide (off < r.1 + r.2.1)) = none := by
    rw [List.find?_eq_none]
    intro r hr
    have hb : ∀ r ∈ registerMap, r.1 + r.2.1 ≤ 0x2C0 := by decide
    have := hb r hr
    simp only [Bool.and_eq_true, decide_eq_true_eq, not_and, not_lt]
    intro _
    omega
  simp [targetAt, hn]

/-- Each byte offset below 0x2C0, checked against the ranges of R61. -/
theorem targetAt_table :
    (List.range 0x2C0).all (fun off => (targetAt off).isNone == decide ((0x01C ≤ off ∧ off ≤ 0x03F) ∨ (0x0A0 ≤ off ∧ off ≤ 0x0BF))) = true := by
  decide +kernel

/-- An offset has no target exactly when it is reserved (R61, R67). -/
theorem targetAt_none_iff (off : Nat) : targetAt off = none ↔ reservedOffset off := by
  by_cases h : 0x2C0 ≤ off
  · simp [targetAt_beyond h, reservedOffset, h]
  · have := List.all_eq_true.1 targetAt_table off (List.mem_range.2 (by omega))
    rw [beq_iff_eq] at this
    rw [← Option.isNone_iff_eq_none, this, decide_eq_true_eq]
    simp only [reservedOffset]
    omega

/-- A scalar register's first offset, and the target of its four bytes. -/
theorem targetAt_scalar : ∀ r : ScalarReg, ∀ k < 4, targetAt (r.offset + k) = some (.scalar r) := by
  intro r
  cases r <;> decide

/-- A window's bytes belong to it (R62). -/
theorem targetAt_window (w : Window) {i : Nat} (hi : i < w.size) : targetAt (w.base + i) = some (.window w) := by
  have h : ∀ w : Window, ∀ i < 64, i < w.size → targetAt (w.base + i) = some (.window w) := by
    intro w; cases w <;> decide +kernel
  exact h w i (by cases w <;> simp [Window.size] at hi ⊢ <;> omega) hi

/-- Every offset with a window target is a byte of that window. -/
theorem targetAt_window_bounds {off : Nat} {w : Window} (h : targetAt off = some (.window w)) :
    w.base ≤ off ∧ off < w.base + w.size := by
  have hb : off < 0x2C0 := by
    by_contra hn
    rw [targetAt_beyond (by omega)] at h
    cases h
  have ht : (List.range 0x2C0).all (fun off => match targetAt off with
      | some (.window w) => decide (w.base ≤ off ∧ off < w.base + w.size)
      | some (.scalar _) => true
      | none => true) = true := by decide +kernel
  have := List.all_eq_true.1 ht off (List.mem_range.2 hb)
  simpa [h] using this

@[simp] theorem inWindow_window (w : Window) {i : Nat} (hi : i < w.size) : inWindow (w.base + i) = true := by
  simp [inWindow, targetAt_window w hi]

/-- "no naturally aligned access of 1, 2 or 4 bytes straddles two windows or a window and a reserved range" (R62), nor two
scalar registers when it has their width. -/
theorem targetAt_straddle {off k : Nat} {t : Target} {width : Width} (ha : off % width.bytes = 0) (hk : k < width.bytes)
    (ht : targetAt off = some t) : targetAt (off + k) = some t := by
  have hb : off < 0x2C0 := by
    by_contra hn
    rw [targetAt_beyond (by omega)] at ht
    cases ht
  have table : (List.range 0x2C0).all (fun off => [Width.byte, .half, .word].all fun width =>
      (List.range width.bytes).all fun k => !decide (off % width.bytes = 0) ||
        decide (targetAt (off + k) = targetAt off)) = true := by decide +kernel
  have h1 := List.all_eq_true.1 table off (List.mem_range.2 hb)
  have h2 := List.all_eq_true.1 h1 width (by cases width <;> simp)
  have h3 := List.all_eq_true.1 h2 k (List.mem_range.2 hk)
  simp only [ha, decide_true, Bool.not_true, Bool.false_or, decide_eq_true_eq] at h3
  rw [h3, ht]

/-- An access that passes the checks: aligned, full width if scalar, every byte in the one target (R62, R67–R69). -/
theorem checkAccess_ok {off : Nat} {width : Width} {t : Target} (h : checkAccess off width = .ok t) :
    off % width.bytes = 0 ∧ (∀ k < width.bytes, targetAt (off + k) = some t) ∧ ∀ r, t = .scalar r → width = .word := by
  simp only [checkAccess] at h
  by_cases h1 : (List.range width.bytes).any (fun k => (targetAt (off + k)).isNone) = true
  · simp [h1] at h
  by_cases h2 : off % width.bytes = 0
  · refine ⟨h2, ?_⟩
    rw [if_neg h1, if_neg (by simp [h2])] at h
    match ht : targetAt off, h with
    | some (.scalar r), h =>
      by_cases hw : width = .word
      · simp only [hw, if_true, Except.ok.injEq] at h
        subst h
        exact ⟨fun k hk => targetAt_straddle h2 hk ht, fun _ _ => hw⟩
      · simp [hw] at h
    | some (.window w), h =>
      simp only [Except.ok.injEq] at h
      subst h
      exact ⟨fun k hk => targetAt_straddle h2 hk ht, fun r hr => by cases hr⟩
  · simp [h1, h2] at h

/-- A write refused or performed leaves what it does not name: who does what next, and the answers so far. -/
theorem writeTarget_agents (off : Nat) (width : Width) (v : Word) (t : Target) (s : State) :
    (writeTarget off width v t s).host = s.host ∧ (writeTarget off width v t s).turns = s.turns ∧
      (writeTarget off width v t s).responses = s.responses ∧ (writeTarget off width v t s).draws = s.draws ∧
      (writeTarget off width v t s).ready = s.ready ∧ (writeTarget off width v t s).result = s.result := by
  cases t with
  | window w => simp only [writeTarget]; split_ifs <;> simp
  | scalar r => cases r <;> simp only [writeTarget] <;> (try split_ifs) <;> simp

end Sys2Proof.Machine
end

