-- ==== Sys2Proof/Laws/Engine.lean ====
section
/-! SUPPORT. The lengths of what the engines return, and the small lemmas of their definitions. -/

namespace Sys2Proof.Machine

@[simp] theorem length_bytes (s : State) (w : Window) (n : Nat) : (s.bytes w n).length = n := by
  simp [State.bytes, Memory.readBytes]

@[simp] theorem length_buffer (s : State) (w : Window) : (s.buffer w).length = w.size := by simp [State.buffer]

/-! ### Interpolation -/

@[simp] theorem evalPoly_nil (x : Byte) : evalPoly [] x = 0x00#8 := rfl

@[simp] theorem evalPoly_cons (c : Byte) (cs : List Byte) (x : Byte) :
    evalPoly (c :: cs) x = gmul (evalPoly cs x) x ^^^ c := rfl

@[simp] theorem length_mulLinear (m : List Byte) (x : Byte) : (mulLinear m x).length = m.length + 1 := by
  simp [mulLinear]

@[simp] theorem length_rootProduct (xs : List Byte) : (rootProduct xs).length = xs.length + 1 := by
  suffices h : ∀ m : List Byte, (xs.foldl mulLinear m).length = m.length + xs.length by
    rw [rootProduct, h]; simp [Nat.add_comm]
  induction xs with
  | nil => simp
  | cons x xs ih => intro m; rw [List.foldl_cons, ih]; simp; omega

@[simp] theorem length_divideTail (x : Byte) (ms : List Byte) : (divideTail x ms).length = ms.length := by
  induction ms with
  | nil => rfl
  | cons m ms ih => simp [divideTail, ih]

/-- The synthetic division collects the values of Horner's method: its head is the value of the tail polynomial. -/
theorem headD_divideTail (x : Byte) (ms : List Byte) : (divideTail x ms).headD 0x00#8 = evalPoly ms x := by
  induction ms with
  | nil => rfl
  | cons m ms ih => simp only [divideTail, List.headD_cons, ih, evalPoly_cons]; exact BitVec.xor_comm _ _

@[simp] theorem length_quotient (m : List Byte) (x : Byte) : (quotient m x).length = m.length - 1 := by
  simp [quotient]

@[simp] theorem length_addNode (m c : List Byte) (node : Byte × Byte) :
    (addNode m c node).length = min c.length (m.length - 1) := by
  simp [addNode]

@[simp] theorem length_interpolate (xs ys : List Byte) : (interpolate xs ys).length = xs.length := by
  suffices h : ∀ (nodes : List (Byte × Byte)) (c : List Byte), c.length = xs.length →
      (nodes.foldl (addNode (rootProduct xs)) c).length = xs.length by
    exact h _ _ (by simp)
  intro nodes
  induction nodes with
  | nil => intro c h; exact h
  | cons node nodes ih => intro c h; exact ih _ (by simp [h])

/-! ### Shuffle -/

@[simp] theorem length_swapAt (seq : List Byte) (i j : Nat) : (swapAt seq i j).length = seq.length := by
  simp [swapAt]

@[simp] theorem length_shuffleFrom (seed : List Byte) (top : Nat) (seq : List Byte) :
    (shuffleFrom seed top seq).length = seq.length := by
  induction top generalizing seq with
  | zero => rfl
  | succ i ih => simp [shuffleFrom, ih]

@[simp] theorem length_shuffle (seed seq : List Byte) (n : Nat) : (shuffle seed seq n).length = seq.length := by
  simp [shuffle]

@[simp] theorem length_identitySeq (n : Nat) : (identitySeq n).length = n := by simp [identitySeq]

/-! ### Round function, key schedule, block cipher -/

@[simp] theorem length_addIndex (bs : List Byte) : (addIndex bs).length = bs.length := by simp [addIndex]

@[simp] theorem length_roundFunction (h rk k2 : List Byte) : (roundFunction h rk k2).length = 32 := by
  simp [roundFunction]

@[simp] theorem length_windowValues (c sx : List Byte) (offset : Byte) :
    (windowValues c sx offset).length = sx.length := by
  simp [windowValues]

@[simp] theorem length_keySchedule_out (input k2 : List Byte) : (keySchedule input k2).out.length = 32 := by
  simp [keySchedule]

@[simp] theorem length_keySchedule_next (input k2 : List Byte) : (keySchedule input k2).next.length = 32 := by
  simp [keySchedule]

@[simp] theorem length_keySchedule_k2 (input k2 : List Byte) :
    (keySchedule input k2).k2.length = 32 + (k2.length - 32) := by
  simp [keySchedule]

/-- k2[32..63] keep their values (R200). -/
@[simp] theorem drop_keySchedule_k2 (input k2 : List Byte) : (keySchedule input k2).k2.drop 32 = k2.drop 32 := by
  rw [keySchedule]
  exact List.drop_left' (by simp)

@[simp] theorem length_mixIv (k1 : List Byte) (iv : Word) : (mixIv k1 iv).length = k1.length := by simp [mixIv]

@[simp] theorem length_blockKeys_k1 (k1 k2 : List Byte) (iv : Word) : (blockKeys k1 k2 iv).k1.length = 32 := by
  simp [blockKeys]

@[simp] theorem length_blockKeys_k2 (k1 k2 : List Byte) (iv : Word) :
    (blockKeys k1 k2 iv).k2.length = 32 + (k2.length - 32) := by
  simp [blockKeys]

@[simp] theorem drop_blockKeys_k2 (k1 k2 : List Byte) (iv : Word) :
    (blockKeys k1 k2 iv).k2.drop 32 = k2.drop 32 := by
  simp [blockKeys]

@[simp] theorem length_xorBytes (a b : List Byte) : (xorBytes a b).length = min a.length b.length := by
  simp [xorBytes]

@[simp] theorem length_encryptBlock (keys : BlockKeys) (b : List Byte) (hb : b.length = 64) :
    (encryptBlock keys b).length = 64 := by
  simp [encryptBlock, encryptRound, joinBlock, splitBlock, hb]

@[simp] theorem length_decryptBlock (keys : BlockKeys) (b : List Byte) (hb : b.length = 64) :
    (decryptBlock keys b).length = 64 := by
  simp [decryptBlock, decryptRound, joinBlock, splitBlock, hb]

end Sys2Proof.Machine
end

