-- ==== Sys2Proof/Laws/Field.lean ====
section
/-! SUPPORT. The table images hold the entries of R142's loop, and the polynomial byte is one this hardware admits. -/

namespace Sys2Proof.Machine

@[simp] theorem length_powersOf (poly : Byte) (n : Nat) (v : Byte) : (powersOf poly n v).length = n := by
  induction n generalizing v with
  | zero => rfl
  | succ n ih => simp [powersOf, ih]

/-- `GF_POLY_LOW` = 0x1D is admitted: 255 distinct nonzero powers (R10, R142). -/
theorem gfPolyLow_admitted : polyAdmitted Config.gfPolyLow = true := by
  have logs : powers.map (fun v => (logAt v).toNat) = List.range 255 := by decide +kernel
  have distinct : powers.Nodup := List.Nodup.of_map _ (logs ▸ List.nodup_range)
  have nonzero : powers.all (fun v => decide (v ≠ 0x00#8)) = true := by decide +kernel
  simp only [polyAdmitted, Bool.and_eq_true, decide_eq_true_eq]
  exact ⟨distinct, nonzero⟩

/-- A polynomial under which x is not primitive is not admitted: 0x11B. -/
theorem poly_1B_not_admitted : polyAdmitted 0x1B#8 = false := by decide +kernel

/-- EXP[i] and EXP[i + 255] are the i-th power of the loop (R142). -/
theorem expAt_powers {i : Nat} (h : i < 255) :
    expAt i = powers.getD i 0x00#8 ∧ expAt (i + 255) = powers.getD i 0x00#8 := by
  have table : (List.range 255).all (fun i =>
      decide (expAt i = powers.getD i 0x00#8 ∧ expAt (i + 255) = powers.getD i 0x00#8)) = true := by decide +kernel
  simpa using List.all_eq_true.1 table i (List.mem_range.2 h)

/-- LOG of the i-th power is i (R142). -/
theorem logAt_powers {i : Nat} (h : i < 255) : (logAt (powers.getD i 0x00#8)).toNat = i := by
  have table : (List.range 255).all (fun i => decide ((logAt (powers.getD i 0x00#8)).toNat = i)) = true := by
    decide +kernel
  simpa using List.all_eq_true.1 table i (List.mem_range.2 h)

/-- LOG[0] holds 0 (R142). -/
theorem logAt_zero : logAt 0x00#8 = 0x00#8 := by decide +kernel

/-- Multiplication by x is additive (R141). -/
theorem xtime_xor (a b : Byte) : xtime (a ^^^ b) = xtime a ^^^ xtime b := by
  have key : ∀ u w p : Byte, u ^^^ p ^^^ (w ^^^ p) = u ^^^ w := fun u w p => by
    rw [show u ^^^ p ^^^ (w ^^^ p) = u ^^^ w ^^^ (p ^^^ p) by ac_rfl, BitVec.xor_self, BitVec.xor_zero]
  simp only [xtime, xtimeOf, BitVec.shiftLeft_xor_distrib, BitVec.getLsbD_xor]
  cases a.getLsbD 7 <;> cases b.getLsbD 7 <;> simp only [Bool.xor_false, Bool.xor_self, Bool.xor_true,
    Bool.not_false, if_true, Bool.false_eq_true, if_false, BitVec.xor_zero]
  · ac_rfl
  · ac_rfl
  · exact (key _ _ _).symm

end Sys2Proof.Machine
end

