-- ==== Sys2Proof/Laws/Memory.lean ====
section
/-! SUPPORT. The laws of the window memory: read after write, the canonical form is kept, and a canonical memory is known by
what it reads. -/

namespace Sys2Proof.Machine.Memory

theorem wf_cons (k : Nat) (v : Byte) (m : Memory) :
    wf ((k, v) :: m) = true ↔ v ≠ unlisted ∧ (∀ c ∈ m, k < c.1) ∧ wf m = true := by
  simp [wf, and_assoc]

@[simp] theorem wf_nil : wf [] = true := rfl

@[simp] theorem read_nil (a : Nat) : read [] a = unlisted := rfl

/-- An offset below every listed one reads as unlisted. -/
theorem read_below {m : Memory} {a : Nat} (h : ∀ c ∈ m, a < c.1) : read m a = unlisted := by
  induction m with
  | nil => rfl
  | cons c m ih =>
    have hne : a ≠ c.1 := Nat.ne_of_lt (h c (by simp))
    simp only [read, if_neg hne]
    exact ih fun d hd => h d (by simp [hd])

/-- Another offset reads as before; any memory. -/
theorem read_write_of_ne (m : Memory) {a a' : Nat} (b : Byte) (h : a' ≠ a) :
    read (write m a b) a' = read m a' := by
  induction m with
  | nil => by_cases hb : b = unlisted <;> simp [write, read, hb, h]
  | cons c m ih =>
    obtain ⟨k, v⟩ := c
    by_cases hk : a < k
    · by_cases hb : b = unlisted <;> simp [write, read, hk, hb, h]
    · by_cases he : a = k
      · subst he
        by_cases hb : b = unlisted <;> simp [write, read, hb, h]
      · simp [write, read, hk, he, ih]

/-- The keys after a write are old ones or the written one. -/
theorem mem_write {m : Memory} {a : Nat} {b : Byte} {c : Host.Cell} (h : c ∈ write m a b) :
    c ∈ m ∨ c = (a, b) := by
  induction m with
  | nil => by_cases hb : b = unlisted <;> simp_all [write]
  | cons d m ih =>
    obtain ⟨k, v⟩ := d
    simp only [write] at h
    split_ifs at h <;> simp only [List.mem_cons] at h ⊢ <;> tauto

/-- A write keeps the canonical form. -/
theorem write_wf {m : Memory} (h : wf m = true) (a : Nat) (b : Byte) : wf (write m a b) = true := by
  induction m with
  | nil => by_cases hb : b = unlisted <;> simp [write, wf, hb]
  | cons c m ih =>
    obtain ⟨k, v⟩ := c
    obtain ⟨hv, hlt, hm⟩ := (wf_cons k v m).1 h
    simp only [write]
    split_ifs with h1 h2 h3 h4
    · exact h
    · refine (wf_cons _ _ _).2 ⟨h2, ?_, h⟩
      intro c hc
      rcases List.mem_cons.1 hc with rfl | hc
      · exact h1
      · exact h1.trans (hlt c hc)
    · exact hm
    · subst h3
      exact (wf_cons _ _ _).2 ⟨h4, hlt, hm⟩
    · refine (wf_cons _ _ _).2 ⟨hv, ?_, ih hm⟩
      intro c hc
      rcases mem_write hc with hc | rfl
      · exact hlt c hc
      · change k < a
        omega

/-- The written offset reads as the byte written. -/
theorem read_write_same {m : Memory} (h : wf m = true) (a : Nat) (b : Byte) : read (write m a b) a = b := by
  induction m with
  | nil => by_cases hb : b = unlisted <;> simp [write, read, hb]
  | cons c m ih =>
    obtain ⟨k, v⟩ := c
    obtain ⟨_, hlt, hm⟩ := (wf_cons k v m).1 h
    simp only [write]
    split_ifs with h1 h2 h3 h4
    · have : a ≠ k := Nat.ne_of_lt h1
      rw [h2, read, if_neg this]
      exact read_below fun c hc => h1.trans (hlt c hc)
    · simp [read]
    · subst h3
      rw [h4]
      exact read_below hlt
    · simp [read]
    · simp [read, h3, ih hm]

theorem read_write {m : Memory} (h : wf m = true) (a a' : Nat) (b : Byte) :
    read (write m a b) a' = if a' = a then b else read m a' := by
  split_ifs with ha
  · rw [ha, read_write_same h]
  · exact read_write_of_ne m b ha

/-! ### Several bytes -/

theorem writeBytes_wf {m : Memory} (h : wf m = true) (a : Nat) (bs : List Byte) : wf (writeBytes m a bs) = true := by
  induction bs generalizing m a with
  | nil => exact h
  | cons b bs ih => exact ih (write_wf h a b) (a + 1)

/-- Outside the bytes stored to, every byte reads as before; any memory. -/
theorem read_writeBytes_outside (m : Memory) (a : Nat) (bs : List Byte) {a' : Nat}
    (h : a' < a ∨ a + bs.length ≤ a') : read (writeBytes m a bs) a' = read m a' := by
  induction bs generalizing m a with
  | nil => rfl
  | cons b bs ih =>
    simp only [List.length_cons] at h
    rw [writeBytes, ih _ _ (by omega)]
    exact read_write_of_ne m b (by omega)

/-- Inside, the bytes stored. -/
theorem read_writeBytes_inside {m : Memory} (hm : wf m = true) (a : Nat) (bs : List Byte) {i : Nat}
    (hi : i < bs.length) : read (writeBytes m a bs) (a + i) = bs[i] := by
  induction bs generalizing m a i with
  | nil => simp at hi
  | cons b bs ih =>
    cases i with
    | zero =>
      rw [writeBytes, read_writeBytes_outside _ _ _ (Or.inl (by omega))]
      exact read_write_same hm a b
    | succ i =>
      have := ih (write_wf hm a b) (a + 1) (i := i) (by simpa using hi)
      rw [writeBytes, show a + (i + 1) = a + 1 + i by omega, this]
      rfl

@[simp] theorem length_readBytes (m : Memory) (a n : Nat) : (readBytes m a n).length = n := by simp [readBytes]

@[simp] theorem getElem_readBytes (m : Memory) (a n i : Nat) (h : i < (readBytes m a n).length) :
    (readBytes m a n)[i] = read m (a + i) := by simp [readBytes]

/-- Reading back what was stored. -/
theorem readBytes_writeBytes_same {m : Memory} (hm : wf m = true) (a : Nat) (bs : List Byte) :
    readBytes (writeBytes m a bs) a bs.length = bs := by
  refine List.ext_getElem (by simp) fun i h1 h2 => ?_
  rw [getElem_readBytes, read_writeBytes_inside hm a bs h2]

/-- Reading a range apart from the one stored to. -/
theorem readBytes_writeBytes_disjoint (m : Memory) (a : Nat) (bs : List Byte) {a' n : Nat}
    (h : a' + n ≤ a ∨ a + bs.length ≤ a') : readBytes (writeBytes m a bs) a' n = readBytes m a' n := by
  refine List.ext_getElem (by simp) fun i h1 h2 => ?_
  have hi : i < n := by simpa using h2
  rw [getElem_readBytes, getElem_readBytes, read_writeBytes_outside _ _ _ (by omega)]

/-- What every listed cell satisfies still holds after storing at offsets that satisfy it. -/
theorem all_writeBytes {m : Memory} {p : Nat → Bool} (hm : m.all (fun c => p c.1) = true) (a : Nat) (bs : List Byte)
    (h : ∀ i, i < bs.length → p (a + i) = true) : (writeBytes m a bs).all (fun c => p c.1) = true := by
  induction bs generalizing m a with
  | nil => exact hm
  | cons b bs ih =>
    refine ih ?_ (a + 1) fun i hi => ?_
    · rw [List.all_eq_true] at hm ⊢
      intro c hc
      rcases mem_write hc with hc | rfl
      · exact hm c hc
      · simpa using h 0 (by simp)
    · have := h (i + 1) (by simpa using hi)
      rwa [show a + 1 + i = a + (i + 1) by omega]

/-! ### Canonical form -/

/-- A listed cell is what its offset reads as. -/
theorem read_of_mem {m : Memory} (h : wf m = true) {c : Host.Cell} (hc : c ∈ m) : read m c.1 = c.2 := by
  induction m with
  | nil => simp at hc
  | cons d m ih =>
    obtain ⟨_, hlt, hm⟩ := (wf_cons d.1 d.2 m).1 h
    rcases List.mem_cons.1 hc with rfl | hc
    · simp [read]
    · have : c.1 ≠ d.1 := Nat.ne_of_gt (hlt c hc)
      simp [read, this, ih hm hc]

/-- Two canonical memories that read alike are the same list. -/
theorem ext_read {m m' : Memory} (h : wf m = true) (h' : wf m' = true) (hr : ∀ a, read m a = read m' a) : m = m' := by
  induction m generalizing m' with
  | nil =>
    cases m' with
    | nil => rfl
    | cons d m' =>
      obtain ⟨hv, _, _⟩ := (wf_cons d.1 d.2 m').1 h'
      have := hr d.1
      rw [read_of_mem h' (by simp : d ∈ d :: m')] at this
      exact absurd this.symm hv
  | cons c m ih =>
    obtain ⟨hv, hlt, hm⟩ := (wf_cons c.1 c.2 m).1 h
    cases m' with
    | nil =>
      have := hr c.1
      rw [read_of_mem h (by simp : c ∈ c :: m)] at this
      exact absurd this hv
    | cons d m' =>
      obtain ⟨hv', hlt', hm'⟩ := (wf_cons d.1 d.2 m').1 h'
      have hk : c.1 = d.1 := by
        rcases Nat.lt_trichotomy c.1 d.1 with hk | hk | hk
        · have := hr c.1
          rw [read_of_mem h (by simp : c ∈ c :: m), read_below (m := d :: m')] at this
          · exact absurd this hv
          · intro e he
            rcases List.mem_cons.1 he with rfl | he
            · exact hk
            · exact hk.trans (hlt' e he)
        · exact hk
        · have := hr d.1
          rw [read_of_mem h' (by simp : d ∈ d :: m'), read_below (m := c :: m)] at this
          · exact absurd this.symm hv'
          · intro e he
            rcases List.mem_cons.1 he with rfl | he
            · exact hk
            · exact hk.trans (hlt e he)
      have hcd : c = d := by
        refine Prod.ext hk ?_
        have := hr c.1
        rwa [read_of_mem h (by simp : c ∈ c :: m), hk, read_of_mem h' (by simp : d ∈ d :: m')] at this
      subst hcd
      congr 1
      refine ih hm hm' fun a => ?_
      by_cases ha : a = c.1
      · rw [ha, read_below hlt, read_below hlt']
      · simpa [read, ha] using hr a

end Sys2Proof.Machine.Memory
end

