-- ==== Sys2Proof/Laws/PerInstr.lean ====
section
/-! SUPPORT. The family EncodesToItsRow: the encoder gives each command the opcode of its row of the table, and no reserved
bit (spec/30_encoding.md R92, R94, R97). -/

namespace Sys2Proof.Laws.EncodesToItsRow

open Sys2Proof Sys2Proof.Machine

/-- The opcode of a command (R94). -/
def opcode : Instr → Byte
  | .nop => 0x00#8
  | .gfadd _ _ => 0x01#8
  | .gfmul _ _ => 0x02#8
  | .gfdiv _ _ => 0x03#8
  | .gflog _ => 0x04#8
  | .gfexp _ => 0x05#8
  | .interp _ => 0x10#8
  | .eval _ _ => 0x11#8
  | .shuffle _ => 0x18#8
  | .roundf => 0x20#8
  | .keysched => 0x28#8
  | .encblk _ => 0x30#8
  | .decblk _ => 0x31#8

/-- OP is the row's opcode and the reserved bits are 0. -/
def Statement (i : Instr) : Prop :=
  fieldOp (encode i) = opcode i ∧ encode i &&& reservedMask (opcode i) = 0#32

/-- A word that is a placed field beside an opcode, bit by bit: the field is not in OP's bits. -/
theorem op_of_placed (v : Word) (op : Word) (hv : v &&& 0xFF#32 = 0#32) : fieldOp (v ||| op) = fieldOp op := by
  ext i hi
  have hb : v.getLsbD i = false := by
    have := congrArg (fun w => w.getLsbD i) hv
    have hi' : i < 8 := hi
    interval_cases i <;> simpa using this
  simp [fieldOp, hb]

/-- Fields placed at bit 8 and up leave OP's bits alone. -/
theorem low_clear {n : Nat} (field : BitVec n) (lo : Nat) (h : 8 ≤ lo) : place field lo &&& 0xFF#32 = 0#32 := by
  ext i hi
  by_cases hl : i < lo
  · simp [place, hl]
  · have : (0xFF#32).getLsbD i = false := by
      have h32 : i < 32 := hi
      have h8 : 8 ≤ i := by omega
      interval_cases i <;> rfl
    have h2 : (0xFF#32)[i] = false := by simpa [BitVec.getLsbD_eq_getElem hi] using this
    simp [h2]

/-- A placed field has no bit at or above its end. -/
theorem high_clear {n : Nat} (field : BitVec n) (lo : Nat) (mask : Word) (h : ∀ i < lo + n, mask.getLsbD i = false) :
    place field lo &&& mask = 0#32 := by
  ext i hi
  by_cases hl : i < lo + n
  · have h2 : mask[i] = false := by simpa [BitVec.getLsbD_eq_getElem hi] using h i hl
    simp [h2]
  · have : field.getLsbD (i - lo) = false := BitVec.getLsbD_of_ge _ _ (by omega)
    simp [place, this]

theorem one_field {n : Nat} (field : BitVec n) (op mask : Word) (hm : ∀ i < 8 + n, mask.getLsbD i = false)
    (ho : op &&& mask = 0#32) :
    fieldOp (place field 8 ||| op) = fieldOp op ∧ (place field 8 ||| op) &&& mask = 0#32 :=
  ⟨op_of_placed _ _ (low_clear _ _ (by omega)), by
    rw [BitVec.and_comm, BitVec.and_or_distrib_left, BitVec.and_comm, high_clear _ _ _ hm, BitVec.and_comm, ho]; rfl⟩

theorem two_fields (b a : Byte) (op : Word) (ho : op &&& 0xFF000000#32 = 0#32) :
    fieldOp (place b 16 ||| place a 8 ||| op) = fieldOp op ∧
      (place b 16 ||| place a 8 ||| op) &&& 0xFF000000#32 = 0#32 := by
  have hb := low_clear b 16 (by omega)
  have ha := low_clear a 8 (by omega)
  have hb' := high_clear b 16 0xFF000000#32 (by decide)
  have ha' := high_clear a 8 0xFF000000#32 (by decide)
  have split (u v w m : Word) : (u ||| v ||| w) &&& m = (u &&& m) ||| (v &&& m) ||| (w &&& m) := by
    ext i hi; simp [Bool.and_or_distrib_right]
  refine ⟨op_of_placed _ _ ?_, ?_⟩
  · have := split (place b 16) (place a 8) 0#32 0xFF#32
    simpa [hb, ha] using this
  · rw [split, hb', ha', ho]; rfl

theorem nop : Statement .nop := by unfold Statement; decide

theorem gfadd (a b : Byte) : Statement (.gfadd a b) := two_fields b a 0x01#32 (by decide)

theorem gfmul (a b : Byte) : Statement (.gfmul a b) := two_fields b a 0x02#32 (by decide)

theorem gfdiv (a b : Byte) : Statement (.gfdiv a b) := two_fields b a 0x03#32 (by decide)

theorem gflog (a : Byte) : Statement (.gflog a) := one_field a 0x04#32 0xFFFF0000#32 (by decide) (by decide)

theorem gfexp (idx : Nat) : Statement (.gfexp idx) := one_field (BitVec.ofNat 9 idx) 0x05#32 0xFFFE0000#32 (by decide) (by decide)

theorem interp (n : Nat) : Statement (.interp n) := one_field (BitVec.ofNat 8 n) 0x10#32 0xFFFF0000#32 (by decide) (by decide)

theorem eval (n : Nat) (x : Byte) : Statement (.eval n x) := two_fields x (BitVec.ofNat 8 n) 0x11#32 (by decide)

theorem shuffle (n : Nat) : Statement (.shuffle n) := one_field (BitVec.ofNat 8 n) 0x18#32 0xFFFF0000#32 (by decide) (by decide)

theorem roundf : Statement .roundf := by unfold Statement; decide

theorem keysched : Statement .keysched := by unfold Statement; decide

theorem encblk (inc : Bool) : Statement (.encblk inc) := by cases inc <;> (unfold Statement; decide)

theorem decblk (inc : Bool) : Statement (.decblk inc) := by cases inc <;> (unfold Statement; decide)

end Sys2Proof.Laws.EncodesToItsRow
end

