-- ==== Sys2Proof/Laws/Step.lean ====
section
/-! SUPPORT. What a completion step and a step can do, said once. -/

namespace Sys2Proof.Machine

/-- What every completion of a checked command leaves alone, given that its effect does. -/
theorem checked_agents (code : ErrCode) (effect : State → State) (s : State)
    (h : (effect s).irqEn = s.irqEn ∧ (effect s).ready = s.ready ∧ (effect s).ovr = s.ovr ∧ (effect s).cmd = s.cmd ∧
      (effect s).pending = s.pending ∧ (effect s).host = s.host ∧ (effect s).turns = s.turns ∧
      (effect s).responses = s.responses) :
    (checked code effect s).busy = false ∧ (checked code effect s).done = true ∧
    (checked code effect s).irqEn = s.irqEn ∧ (checked code effect s).ready = s.ready ∧
    (checked code effect s).ovr = s.ovr ∧ (checked code effect s).cmd = s.cmd ∧
    (checked code effect s).pending = s.pending ∧ (checked code effect s).host = s.host ∧
    (checked code effect s).turns = s.turns ∧ (checked code effect s).responses = s.responses := by
  by_cases hc : code = .noError
  · subst hc; simpa using h
  · simp [checked_error hc]

/-- A completion ends the command and touches neither CTRL, READY, OVR, CMD, PENDING nor the host's side (R122). -/
theorem exec_agents {i : Instr} {s t : State} (h : exec i s = .next t) :
    t.busy = false ∧ t.done = true ∧ t.irqEn = s.irqEn ∧ t.ready = s.ready ∧ t.ovr = s.ovr ∧ t.cmd = s.cmd ∧
      t.pending = s.pending ∧ t.host = s.host ∧ t.turns = s.turns ∧ t.responses = s.responses := by
  have inj {a : State} (ha : Host.Outcome.next (φ := Fault) (ρ := Refusal) a = .next t) : t = a := by
    cases ha; rfl
  cases i with
  | nop => obtain rfl := inj h; simp
  | gfadd a b => obtain rfl := inj h; simp
  | gfmul a b => obtain rfl := inj h; simp
  | gfdiv a b => obtain rfl := inj h; simp
  | gflog a => obtain rfl := inj h; exact checked_agents _ _ _ (by simp)
  | gfexp idx => obtain rfl := inj h; exact checked_agents _ _ _ (by simp)
  | interp n =>
    obtain rfl := inj h
    exact checked_agents _ _ _ (by simp only [interpEffect]; split_ifs <;> simp)
  | eval n x => obtain rfl := inj h; exact checked_agents _ _ _ (by simp)
  | shuffle n => obtain rfl := inj h; exact checked_agents _ _ _ (by simp)
  | roundf => obtain rfl := inj h; simp
  | keysched => obtain rfl := inj h; simp
  | encblk inc => obtain rfl := inj h; simp [blockEffect]
  | decblk inc => obtain rfl := inj h; simp [blockEffect]

/-- Which agent moves in a step (R76): the listed turn, or, with none listed, an enabled engine, else the host. -/
theorem step_cases (s : State) :
    (∃ rest, s.turns = .engine :: rest ∧ step s = engineTurn { s with turns := rest }) ∨
    (∃ rest, s.turns = .host :: rest ∧ step s = .next (hostTurn { s with turns := rest })) ∨
    (∃ rest, s.turns = .reset :: rest ∧ step s = .next (resetCore { s with turns := rest })) ∨
    (s.turns = [] ∧ engineEnabled s = true ∧ step s = engineTurn s) ∨
    (s.turns = [] ∧ engineEnabled s = false ∧ step s = .next (hostTurn s)) := by
  cases ht : s.turns with
  | nil => cases he : engineEnabled s <;> simp [step, ht, he]
  | cons turn rest => cases turn <;> simp [step, ht]

/-- The engine's turn in the three conditions of R120. -/
theorem engineTurn_initialising {s : State} (h : s.ready = false) : engineTurn s = .next (initialise s) := by
  simp [engineTurn, h]

theorem engineTurn_running {s : State} (h : s.running) : engineTurn s = completionStep s := by
  simp [engineTurn, h.1, h.2]

theorem engineTurn_idle {s : State} (h : s.idle) : engineTurn s = .next s := by
  simp [engineTurn, h.1, h.2]

end Sys2Proof.Machine
end

