-- ==== Sys2Proof/Tests/Slice0.lean ====
section
/-! SUPPORT. The model's own tests. Every expected value is a value of spec/ (95_test_vectors.md unless said otherwise), and the
second half shows for each statement with hypotheses a state and operands that meet them. -/

namespace Sys2Proof.Tests.Slice0

set_option Elab.async false

open Sys2Proof.Machine

/-! ### Helpers -/

/-- The state right after initialisation (vector RS2), with bytes stored at the start of some windows. -/
def poked (buffers : List (Window × List Byte)) : State :=
  buffers.foldl (fun s b => s.store b.1 b.2) (initialise State.reset)

/-- The state after one step that runs the command word w. -/
def afterWord (w : Nat) (s : State) : State :=
  match step (s.withFetchWord 32 w) with
  | .next t => t
  | .fault _ => s
  | .refused _ => s

/-- The running core whose PENDING holds the word w, no turn listed. -/
def runningWord (w : Word) : State := accept w (poked [])

/-- The state after the host's operations, each in its turn, while no engine turn comes. -/
def hostRun : List HostOp → State → State
  | [], s => s
  | op :: ops, s => hostRun ops (hostTurn { s with host := [op] })

/-- RESULT, ERRCODE and STATUS after a command word. -/
def outcome (w : Nat) (s : State) : Byte × Byte × Word :=
  ((afterWord w s).result, (afterWord w s).errcode.toByte, (afterWord w s).statusWord)

/-! ### Well-formed commands (30_encoding.md R91, R99) -/

theorem test_wellFormed_refuses_gfexp_512 : (Instr.gfexp 512).wellFormed = false := by decide
theorem test_wellFormed_refuses_interp_256 : (Instr.interp 256).wellFormed = false := by decide
theorem test_wellFormed_refuses_eval_256 : (Instr.eval 256 0x00#8).wellFormed = false := by decide
theorem test_wellFormed_refuses_shuffle_256 : (Instr.shuffle 256).wellFormed = false := by decide
theorem test_wellFormed_accepts_the_largest :
    (Instr.gfexp 511).wellFormed ∧ (Instr.interp 255).wellFormed ∧ (Instr.eval 255 0xFF#8).wellFormed ∧
      (Instr.shuffle 255).wellFormed := by decide

/-! ### Decoding: one word per command, written out from R91, R92, R94 -/

theorem test_decode_nop : decodeTableWord 32 0b00000000000000000000000000000000 = some .nop := by decide +kernel
theorem test_decode_gfadd :
    decodeTableWord 32 0b00000000110010100101001100000001 = some (.gfadd 0x53#8 0xCA#8) := by decide +kernel
theorem test_decode_gfmul :
    decodeTableWord 32 0b00000000100000000000001000000010 = some (.gfmul 0x02#8 0x80#8) := by decide +kernel
theorem test_decode_gfdiv :
    decodeTableWord 32 0b00000000100011100000001000000011 = some (.gfdiv 0x02#8 0x8E#8) := by decide +kernel
theorem test_decode_gflog :
    decodeTableWord 32 0b00000000000000000001110100000100 = some (.gflog 0x1D#8) := by decide +kernel
theorem test_decode_gfexp :
    decodeTableWord 32 0b00000000000000010010110000000101 = some (.gfexp 300) := by decide +kernel
theorem test_decode_interp :
    decodeTableWord 32 0b00000000000000000100000000010000 = some (.interp 64) := by decide +kernel
theorem test_decode_eval :
    decodeTableWord 32 0b00000000000000100000001100010001 = some (.eval 3 0x02#8) := by decide +kernel
theorem test_decode_shuffle :
    decodeTableWord 32 0b00000000000000000000010000011000 = some (.shuffle 4) := by decide +kernel
theorem test_decode_roundf : decodeTableWord 32 0b00000000000000000000000000100000 = some .roundf := by decide +kernel
theorem test_decode_keysched : decodeTableWord 32 0b00000000000000000000000000101000 = some .keysched := by decide +kernel
theorem test_decode_encblk :
    decodeTableWord 32 0b00000000000000000000000100110000 = some (.encblk true) := by decide +kernel
theorem test_decode_decblk :
    decodeTableWord 32 0b00000000000000000000000000110001 = some (.decblk false) := by decide +kernel

/-- DE2–DE18: the words that complete with a command error, and their codes. -/
theorem test_command_errors :
    [0x00000100, 0x00000006, 0xFFFFFFFF, 0x01000001, 0x00010004, 0x00020005, 0x00000010, 0x00004110, 0x01000010,
      0x00010018, 0x00000120, 0x80000028, 0x00000032, 0x00FF0011, 0x0000000F, 0x00000230].map
        (fun w => (outcome w (poked [])).2) =
      [(0x02#8, 0x0E#32), (0x01#8, 0x0E#32), (0x01#8, 0x0E#32), (0x02#8, 0x0E#32), (0x02#8, 0x0E#32), (0x02#8, 0x0E#32),
        (0x03#8, 0x0E#32), (0x03#8, 0x0E#32), (0x02#8, 0x0E#32), (0x02#8, 0x0E#32), (0x02#8, 0x0E#32), (0x02#8, 0x0E#32),
        (0x01#8, 0x0E#32), (0x03#8, 0x0E#32), (0x01#8, 0x0E#32), (0x02#8, 0x0E#32)] := by decide +kernel

/-! ### The tables (95 sections 2.1, 2.2) -/

/-- EXP[0..254], row r holding 16r..16r+15. -/
def expRows : List Byte :=
  [0x01, 0x02, 0x04, 0x08, 0x10, 0x20, 0x40, 0x80, 0x1D, 0x3A, 0x74, 0xE8, 0xCD, 0x87, 0x13, 0x26] ++
  [0x4C, 0x98, 0x2D, 0x5A, 0xB4, 0x75, 0xEA, 0xC9, 0x8F, 0x03, 0x06, 0x0C, 0x18, 0x30, 0x60, 0xC0] ++
  [0x9D, 0x27, 0x4E, 0x9C, 0x25, 0x4A, 0x94, 0x35, 0x6A, 0xD4, 0xB5, 0x77, 0xEE, 0xC1, 0x9F, 0x23] ++
  [0x46, 0x8C, 0x05, 0x0A, 0x14, 0x28, 0x50, 0xA0, 0x5D, 0xBA, 0x69, 0xD2, 0xB9, 0x6F, 0xDE, 0xA1] ++
  [0x5F, 0xBE, 0x61, 0xC2, 0x99, 0x2F, 0x5E, 0xBC, 0x65, 0xCA, 0x89, 0x0F, 0x1E, 0x3C, 0x78, 0xF0] ++
  [0xFD, 0xE7, 0xD3, 0xBB, 0x6B, 0xD6, 0xB1, 0x7F, 0xFE, 0xE1, 0xDF, 0xA3, 0x5B, 0xB6, 0x71, 0xE2] ++
  [0xD9, 0xAF, 0x43, 0x86, 0x11, 0x22, 0x44, 0x88, 0x0D, 0x1A, 0x34, 0x68, 0xD0, 0xBD, 0x67, 0xCE] ++
  [0x81, 0x1F, 0x3E, 0x7C, 0xF8, 0xED, 0xC7, 0x93, 0x3B, 0x76, 0xEC, 0xC5, 0x97, 0x33, 0x66, 0xCC] ++
  [0x85, 0x17, 0x2E, 0x5C, 0xB8, 0x6D, 0xDA, 0xA9, 0x4F, 0x9E, 0x21, 0x42, 0x84, 0x15, 0x2A, 0x54] ++
  [0xA8, 0x4D, 0x9A, 0x29, 0x52, 0xA4, 0x55, 0xAA, 0x49, 0x92, 0x39, 0x72, 0xE4, 0xD5, 0xB7, 0x73] ++
  [0xE6, 0xD1, 0xBF, 0x63, 0xC6, 0x91, 0x3F, 0x7E, 0xFC, 0xE5, 0xD7, 0xB3, 0x7B, 0xF6, 0xF1, 0xFF] ++
  [0xE3, 0xDB, 0xAB, 0x4B, 0x96, 0x31, 0x62, 0xC4, 0x95, 0x37, 0x6E, 0xDC, 0xA5, 0x57, 0xAE, 0x41] ++
  [0x82, 0x19, 0x32, 0x64, 0xC8, 0x8D, 0x07, 0x0E, 0x1C, 0x38, 0x70, 0xE0, 0xDD, 0xA7, 0x53, 0xA6] ++
  [0x51, 0xA2, 0x59, 0xB2, 0x79, 0xF2, 0xF9, 0xEF, 0xC3, 0x9B, 0x2B, 0x56, 0xAC, 0x45, 0x8A, 0x09] ++
  [0x12, 0x24, 0x48, 0x90, 0x3D, 0x7A, 0xF4, 0xF5, 0xF7, 0xF3, 0xFB, 0xEB, 0xCB, 0x8B, 0x0B, 0x16] ++
  [0x2C, 0x58, 0xB0, 0x7D, 0xFA, 0xE9, 0xCF, 0x83, 0x1B, 0x36, 0x6C, 0xD8, 0xAD, 0x47, 0x8E]

/-- LOG[0x00..0xFF], 0 at entry 0. -/
def logRows : List Byte :=
  [0x00, 0x00, 0x01, 0x19, 0x02, 0x32, 0x1A, 0xC6, 0x03, 0xDF, 0x33, 0xEE, 0x1B, 0x68, 0xC7, 0x4B] ++
  [0x04, 0x64, 0xE0, 0x0E, 0x34, 0x8D, 0xEF, 0x81, 0x1C, 0xC1, 0x69, 0xF8, 0xC8, 0x08, 0x4C, 0x71] ++
  [0x05, 0x8A, 0x65, 0x2F, 0xE1, 0x24, 0x0F, 0x21, 0x35, 0x93, 0x8E, 0xDA, 0xF0, 0x12, 0x82, 0x45] ++
  [0x1D, 0xB5, 0xC2, 0x7D, 0x6A, 0x27, 0xF9, 0xB9, 0xC9, 0x9A, 0x09, 0x78, 0x4D, 0xE4, 0x72, 0xA6] ++
  [0x06, 0xBF, 0x8B, 0x62, 0x66, 0xDD, 0x30, 0xFD, 0xE2, 0x98, 0x25, 0xB3, 0x10, 0x91, 0x22, 0x88] ++
  [0x36, 0xD0, 0x94, 0xCE, 0x8F, 0x96, 0xDB, 0xBD, 0xF1, 0xD2, 0x13, 0x5C, 0x83, 0x38, 0x46, 0x40] ++
  [0x1E, 0x42, 0xB6, 0xA3, 0xC3, 0x48, 0x7E, 0x6E, 0x6B, 0x3A, 0x28, 0x54, 0xFA, 0x85, 0xBA, 0x3D] ++
  [0xCA, 0x5E, 0x9B, 0x9F, 0x0A, 0x15, 0x79, 0x2B, 0x4E, 0xD4, 0xE5, 0xAC, 0x73, 0xF3, 0xA7, 0x57] ++
  [0x07, 0x70, 0xC0, 0xF7, 0x8C, 0x80, 0x63, 0x0D, 0x67, 0x4A, 0xDE, 0xED, 0x31, 0xC5, 0xFE, 0x18] ++
  [0xE3, 0xA5, 0x99, 0x77, 0x26, 0xB8, 0xB4, 0x7C, 0x11, 0x44, 0x92, 0xD9, 0x23, 0x20, 0x89, 0x2E] ++
  [0x37, 0x3F, 0xD1, 0x5B, 0x95, 0xBC, 0xCF, 0xCD, 0x90, 0x87, 0x97, 0xB2, 0xDC, 0xFC, 0xBE, 0x61] ++
  [0xF2, 0x56, 0xD3, 0xAB, 0x14, 0x2A, 0x5D, 0x9E, 0x84, 0x3C, 0x39, 0x53, 0x47, 0x6D, 0x41, 0xA2] ++
  [0x1F, 0x2D, 0x43, 0xD8, 0xB7, 0x7B, 0xA4, 0x76, 0xC4, 0x17, 0x49, 0xEC, 0x7F, 0x0C, 0x6F, 0xF6] ++
  [0x6C, 0xA1, 0x3B, 0x52, 0x29, 0x9D, 0x55, 0xAA, 0xFB, 0x60, 0x86, 0xB1, 0xBB, 0xCC, 0x3E, 0x5A] ++
  [0xCB, 0x59, 0x5F, 0xB0, 0x9C, 0xA9, 0xA0, 0x51, 0x0B, 0xF5, 0x16, 0xEB, 0x7A, 0x75, 0x2C, 0xD7] ++
  [0x4F, 0xAE, 0xD5, 0xE9, 0xE6, 0xE7, 0xAD, 0xE8, 0x74, 0xD6, 0xF4, 0xEA, 0xA8, 0x50, 0x58, 0xAF]

theorem test_exp_table : (List.range 510).map expAt = expRows ++ expRows := by decide +kernel
theorem test_log_table : (List.range 256).map (fun v => logAt (BitVec.ofNat 8 v)) = logRows := by decide +kernel

/-! ### One step per command -/

theorem test_nop_only_completes :
    afterWord 0x00000000 (poked [(.xs, [0x01#8])]) =
      { poked [(.xs, [0x01#8])] with done := true } := by decide +kernel

/-- FA1. -/
theorem test_gfadd : outcome 0x00CA5301 (poked []) = (0x99#8, 0x00#8, 0x06#32) := by decide +kernel

/-- FM1, FM2, FM3, FM5, FM6. -/
theorem test_gfmul :
    [0x00800202, 0x00CA5302, 0x00FFFF02, 0x00808002, 0x00350002].map (fun w => outcome w (poked [])) =
      [0x1D#8, 0x8F#8, 0xE2#8, 0x13#8, 0x00#8].map (fun r => (r, 0x00#8, 0x06#32)) := by decide +kernel

/-- FD2, FD3, FD4, FD5, FD8: operand order, zero on either side, the wrapping difference. -/
theorem test_gfdiv :
    [0x00021D03, 0x00030703, 0x00050003, 0x00000503, 0x008E0203].map (fun w => outcome w (poked [])) =
      [0x80#8, 0xF6#8, 0x00#8, 0x00#8, 0x04#8].map (fun r => (r, 0x00#8, 0x06#32)) := by decide +kernel

/-- FL6. -/
theorem test_gflog : outcome 0x00008E04 (poked []) = (0xFE#8, 0x00#8, 0x06#32) := by decide +kernel

/-- FL9: RESULT keeps FA1's value. -/
theorem test_gflog_zero : outcome 0x00000004 (afterWord 0x00CA5301 (poked [])) = (0x99#8, 0x04#8, 0x0E#32) := by
  decide +kernel

/-- FE9, FE10. -/
theorem test_gfexp :
    [0x00012C05, 0x0001FD05].map (fun w => outcome w (poked [])) = [(0xC1#8, 0x00#8, 0x06#32), (0x8E#8, 0x00#8, 0x06#32)] := by
  decide +kernel

/-- FE11: RESULT keeps FA1's value. -/
theorem test_gfexp_range : outcome 0x0001FE05 (afterWord 0x00CA5301 (poked [])) = (0x99#8, 0x05#8, 0x0E#32) := by
  decide +kernel

/-- IN5; COEF[4] keeps its byte. -/
theorem test_interp :
    (afterWord 0x00000410 (poked [(.xs, [0x00#8, 0x01#8, 0x02#8, 0x03#8]), (.ys, [0x10#8, 0x20#8, 0x30#8, 0x40#8]),
      (.coef, List.replicate 5 0x77#8)])).bytes .coef 5 = [0x10#8, 0x10#8, 0xCB#8, 0xEB#8, 0x77#8] := by decide +kernel

/-- IN8: two equal x values are no error (R163). -/
theorem test_interp_equal_xs :
    (afterWord 0x00000210 (poked [(.xs, [0x05#8, 0x05#8]), (.ys, [0x01#8, 0x02#8])])).statusWord = 0x06#32 := by
  decide +kernel

/-- EV5. -/
theorem test_eval :
    outcome 0x00040411 (poked [(.coef, [0x10#8, 0x10#8, 0xCB#8, 0xEB#8])]) = (0x24#8, 0x00#8, 0x06#32) := by decide +kernel

/-- EV11, EV10: RESULT keeps FA1's value. -/
theorem test_eval_bad_count :
    [0x00004111, 0x00000011].map (fun w => outcome w (afterWord 0x00CA5301 (poked []))) =
      [(0x99#8, 0x03#8, 0x0E#32), (0x99#8, 0x03#8, 0x0E#32)] := by decide +kernel

/-- SH4. -/
theorem test_shuffle :
    (afterWord 0x00000818 (poked [(.seed, List.replicate 8 0xFF#8), (.seq, identitySeq 8)])).bytes .seq 8 =
      [0x02#8, 0x01#8, 0x04#8, 0x05#8, 0x00#8, 0x06#8, 0x03#8, 0x07#8] := by decide +kernel

/-- SH6, with SEQ[4] keeping its byte. -/
theorem test_shuffle_frame :
    (afterWord 0x00000418 (poked [(.seq, [0xAA#8, 0xBB#8, 0xCC#8, 0xDD#8, 0xEE#8])])).bytes .seq 5 =
      [0xBB#8, 0xCC#8, 0xDD#8, 0xAA#8, 0xEE#8] := by decide +kernel

/-- RF4, the first two bytes of FOUT. -/
theorem test_roundf :
    (afterWord 0x00000020 (poked [(.fin, (List.range 32).map fun i => BitVec.ofNat 8 (3 * i)),
      (.rk, (List.range 32).map fun i => BitVec.ofNat 8 (0xF0 - i)),
      (.k2, (List.range 64).map fun i => BitVec.ofNat 8 (5 * i + 1))])).bytes .fout 2 = [0x1B#8, 0x39#8] := by
  decide +kernel

/-- KS2: the first bytes of KSOUT and K1 and the bytes of K2 on either side of byte 32. -/
theorem test_keysched :
    let t := afterWord 0x00000028 (poked [(.k1, identitySeq 32), (.k2, identitySeq 64)])
    t.bytes .ksout 2 = [0x80#8, 0x82#8] ∧ t.bytes .k1 2 = [0x1D#8, 0x1F#8] ∧
      [31, 32].map (fun i => Memory.read t.mem (Window.k2.base + i)) = [0xA3#8, 0x20#8] := by decide +kernel

/-- BC3: BLOCK of the encryption with every input a different byte, and IV without INC. -/
theorem test_encblk :
    let t := afterWord 0x00000030
      { poked [(.block, identitySeq 64), (.k1, (List.range 32).map fun i => BitVec.ofNat 8 (0x20 + i)),
          (.k2, (List.range 64).map fun i => BitVec.ofNat 8 (0x40 + i))] with iv := 0x04030201#32 }
    t.bytes .block 4 = [0x77#8, 0xD8#8, 0x81#8, 0xE4#8] ∧ t.iv = 0x04030201#32 := by decide +kernel

/-- BC7: IV wraps at INC (R215). -/
theorem test_encblk_inc_wraps_iv :
    (afterWord 0x00000130 { poked [] with iv := 0xFFFFFFFF#32 }).iv = 0x00000000#32 := by decide +kernel

/-- BC5: the key as BC1 leaves it, IV without INC. -/
theorem test_decblk :
    let t := afterWord 0x00000031 (poked [])
    t.bytes .k1 2 = [0x70#8, 0xF6#8] ∧ t.iv = 0x00000000#32 := by decide +kernel

/-- BC4: IV of `decblk.inc`. -/
theorem test_decblk_inc : (afterWord 0x00000131 (poked [])).iv = 0x00000001#32 := by decide +kernel

/-! ### Bus, reset and host programs -/

/-- BU1. -/
theorem test_bus_little_endian :
    (hostRun (sw 0x100 0x44332211#32 ++ lb 0x100 ++ lb 0x103 ++ lh 0x102 ++ lw 0x100) (poked [])).responses =
      [.ack, .data 0x11#32, .data 0x44#32, .data 0x4433#32, .data 0x44332211#32] := by decide +kernel

/-- BU2–BU6: refused accesses change nothing but the list of answers. -/
theorem test_bus_errors :
    hostRun (sh 0x101 0x1234#32 ++ lw 0x102 ++ lb 0x008 ++ sh 0x018 0x0001#32 ++ lw 0x01C ++ lw 0x0A0 ++ lw 0x2C0 ++
      sw 0x3FC 0#32) (poked []) = { poked [] with responses := List.replicate 8 .error } := by decide +kernel

/-- BU9. -/
theorem test_status_write_one_to_clear :
    (hostRun (sw 0x008 0xFFFFFFFF#32) { poked [] with done := true, ovr := true, errcode := .illegalOp }).statusWord =
      0x0000000A#32 := by decide +kernel

/-- BU11, BU12: a running core discards writes to IV, XS and CMD and performs the one to CTRL. -/
theorem test_bus_while_running :
    hostRun (sw 0x018 5#32 ++ sb 0x100 9#8 ++ sw 0x010 0#32 ++ sw 0x004 1#32) (runningWord 0x00004010#32) =
      { runningWord 0x00004010#32 with ovr := true, irqEn := true, responses := List.replicate 4 .ack } := by decide +kernel

/-- A word write to IV while idle (R30). -/
theorem test_iv_write : hostRun (sw 0x018 0x04030201#32) (poked []) =
    { poked [] with iv := 0x04030201#32, responses := [.ack] } := by decide +kernel

/-- BU15: byte 32 of the key file is K2[0]. -/
theorem test_bus_key_file :
    (hostRun (sw 0x040 0x03020100#32 ++ lb 0x042 ++ lb 0x060) (poked [(.k2, [0xC1#8])])).responses =
      [.ack, .data 0x02#32, .data 0xC1#32] := by decide +kernel

/-- RS1, RS2: STATUS right after reset and after the first step. -/
theorem test_reset_then_initialised :
    State.reset.statusWord = 0x00000001#32 ∧ Memory.wf State.reset.mem = true ∧
      step State.reset = .next (poked []) ∧ (poked []).statusWord = 0x00000002#32 := ⟨by decide, by decide, rfl, by decide⟩

/-- RS4: `sw CTRL, 1` then NOP raises irq. -/
theorem test_irq :
    (afterWord 0x00000000 (hostRun (sw 0x004 1#32) (poked []))).irq = true := by decide +kernel

theorem test_assembler_example_words :
    ["nop", "gfmul 0x02, 0x80", "gflog 0x1D", "gfexp 300", "interp 64", "eval 3, 0x02", "encblk.inc", "gfinv 0x53"].map
        (fun line => (assembleLine line.toList).map encode) =
      [0x00000000#32, 0x00800202#32, 0x00001D04#32, 0x00012C05#32, 0x00004010#32, 0x00020311#32, 0x00000130#32,
        0x00530103#32].map some := by decide +kernel

theorem test_assembler_refuses_what_does_not_fit :
    ["gfmul 256, 0", "gfexp 512", "interp 256", "gfpow2 510", "nop 1", "halt"].map (fun line => assembleLine line.toList) =
      List.replicate 6 none := by decide +kernel

/-- R101: "`K2+5` is 0x065". -/
theorem test_offset_operands :
    ["K2+5", "STATUS", "0x3FC", "K3"].map (fun cs => offsetOperand cs.toList) = [some 0x065, some 0x008, some 0x3FC, none] := by
  decide +kernel

/-! ### Witnesses: states and operands that meet each statement's hypotheses -/

/-- DecoderSelectsOrRefusesByName. -/
theorem test_witness_decoder :
    0x0F#8 ∉ assignedOps ∧ 0x32#8 ∉ assignedOps ∧
    0x31#8 ∈ assignedOps ∧ 0x00000231#32 &&& reservedMask 0x31#8 ≠ 0#32 ∧
    0x00000131#32 &&& reservedMask 0x31#8 = 0#32 ∧ 0x00FFFF11#32 &&& reservedMask 0x11#8 = 0#32 ∧
    0x0001FF05#32 &&& reservedMask 0x05#8 = 0#32 ∧ 0x00020005#32 &&& reservedMask 0x05#8 ≠ 0#32 := by decide +kernel

/-- AssembledCommandsFitTheirFields. -/
theorem test_witness_assembled : assemble "eval".toList [255, 255] = some (.eval 255 0xFF#8) := by decide +kernel

/-- StepRunsTheDecodedCommand, CompletionReportsTheErrorOfThePriorityOrder, IrqFollowsCompletion. -/
theorem test_witness_step_runs :
    (runningWord 0x00001D04#32).running ∧ decode (runningWord 0x00001D04#32).pending = .ok (.gflog 0x1D#8) ∧
    (runningWord 0x00001D04#32).turns = [] ∧
    ((poked []).withFetchWord 32 0x00001D04).turns = [.engine] ∧
    ((poked []).withFetchWord 32 0x00001D04).running := ⟨⟨rfl, rfl⟩, rfl, rfl, rfl, ⟨rfl, rfl⟩⟩

/-- CommandWriteIsAcceptedOrDiscarded, StatusWritesClearDoneAndOvr (its IV clause): idle and running. -/
theorem test_witness_command_write : (poked []).busy = false ∧ (runningWord 0#32).busy = true := ⟨rfl, rfl⟩

/-- AcceptedWordCompletesAtTheEngineStep, ReadyIsClearedByResetOnly. -/
theorem test_witness_ready :
    (poked []).ready = true ∧ step { poked [] with turns := [.reset] } = .next State.reset ∧
      State.reset.ready = false := ⟨rfl, rfl, rfl⟩

/-- CommandErrorWritesOnlyErrcodeAndStatus. -/
theorem test_witness_command_error :
    (runningWord 0x00000004#32).running ∧ ∃ t, engineTurn (runningWord 0x00000004#32) = .next t ∧ t.errcode = .logZero :=
  ⟨⟨rfl, rfl⟩, _, rfl, rfl⟩

/-- UnassignedOpcodeCompletesWithIllegalOp, ReservedBitCompletesWithReservedBits. -/
theorem test_witness_undecodable :
    (runningWord 0xFFFFFFFF#32).running ∧ (runningWord 0xFFFFFFFF#32).pending.extractLsb' 0 8 ∉ assignedOps ∧
    (runningWord 0x00000230#32).running ∧ (runningWord 0x00000230#32).pending.extractLsb' 0 8 ∈ assignedOps ∧
    (runningWord 0x00000230#32).pending &&& reservedMask ((runningWord 0x00000230#32).pending.extractLsb' 0 8) ≠ 0#32 :=
  ⟨⟨rfl, rfl⟩, by decide, ⟨rfl, rfl⟩, by decide, by decide⟩

/-- GFDIV, GFLOG and GFEXP at the boundaries of their clauses. -/
theorem test_witness_field_operands :
    (0x00#8 = 0x00#8 ∨ 0x05#8 = 0x00#8) ∧ 0x01#8 ≠ 0x00#8 ∧ 509 ≤ 509 ∧ 510 ≤ 510 := by decide

/-- InterpCompletesInItsThreeCases, InterpThenEvalGivesTheNode, FrameOfInterpAndShuffle: distinct xs at n = 1 and n = 64, two equal
xs at n = 2. -/
theorem test_witness_interp :
    ((poked []).bytes .xs 1).Nodup ∧ ((poked [(.xs, identitySeq 64)]).bytes .xs 64).Nodup ∧
    Memory.wf (poked [(.xs, identitySeq 64)]).mem = true ∧ ¬ ((poked []).bytes .xs 2).Nodup ∧
    (∃ t, exec (.interp 2) (poked []) = .next t) ∧ ∃ t, exec (.shuffle 2) (poked []) = .next t :=
  ⟨by decide +kernel, by decide +kernel, by decide +kernel, by decide +kernel, ⟨_, rfl⟩, ⟨_, rfl⟩⟩

/-- InterpolationGivesTheUniquePolynomial: IN2, whose coefficients go through the nodes, and 64 nodes. -/
theorem test_witness_interpolation :
    ([0x00#8, 0x01#8] : List Byte).Nodup ∧
    (∀ i, i < 2 → polyValue [0x05#8, 0x02#8] ([0x00#8, 0x01#8].getD i 0x00#8) = [0x05#8, 0x07#8].getD i 0x00#8) ∧
    (identitySeq 64).length = 64 ∧ (identitySeq 64).Nodup :=
  ⟨by decide, by decide +kernel, by decide, by decide +kernel⟩

/-- ShuffleRearrangesAndIgnoresSeedZero: SH2 (n = 4, for every clause), n = 1 and n = 64; n = 2 is SH8's. -/
theorem test_witness_shuffle :
    ([0x00#8, 0x01#8, 0x02#8, 0x03#8] : List Byte).length = 4 ∧
    (∀ i, i < 4 → ([0x00#8, 0x01#8, 0x02#8, 0x03#8].getD i 0x00#8).toNat % (i + 1) = i) ∧
    ([0x37#8] : List Byte).length = 1 ∧ (identitySeq 64).length = 64 ∧
    ([0x00#8, 0x00#8] : List Byte).length = 2 ∧
    (∀ i, i < 64 → ((identitySeq 64).getD i 0x00#8).toNat % (i + 1) = i) := by decide +kernel

/-- RoundFunctionEvaluatesThePolynomialOfItsNodes, KeyScheduleEvaluatesThePolynomialOfItsNodes and its zero case. -/
theorem test_witness_buffers :
    (List.replicate 32 0x00#8).length = 32 ∧ (identitySeq 32).length = 32 ∧ (identitySeq 64).length = 64 := by decide

/-- RoundfReadsOnlyFinRkAndK2AboveZero, KeyschedReadsOnly…, EncblkAndDecblkEvolveTheKeyAlike, and the statements over a canonical
memory: two states that differ in K2[0], and two that differ in BLOCK only. -/
theorem test_witness_two_states :
    let s := poked [(.k2, identitySeq 64)]
    let s' := poked [(.k2, 0xFF#8 :: (identitySeq 64).tail)]
    let u := poked [(.block, [0x01#8])]
    Memory.wf s.mem = true ∧ Memory.wf s'.mem = true ∧ s ≠ s' ∧ s.buffer .fin = s'.buffer .fin ∧
    s.buffer .rk = s'.buffer .rk ∧ s.buffer .k1 = s'.buffer .k1 ∧ (s.buffer .k2).tail = (s'.buffer .k2).tail ∧
    (s.bytes .k2 32).tail = (s'.bytes .k2 32).tail ∧
    Memory.wf u.mem = true ∧ u.buffer .k1 = (poked []).buffer .k1 ∧ u.buffer .k2 = (poked []).buffer .k2 ∧
    u.iv = (poked []).iv ∧ u ≠ poked [] := by decide +kernel

/-- FrameOfCommandsThatStoreNothing. -/
theorem test_witness_stores_nothing :
    storesNothing .nop = true ∧ storesNothing (.eval 65 0x00#8) = true ∧
      exec .nop (poked []) = .next { poked [] with done := true } := ⟨rfl, rfl, rfl⟩

/-- FrameOfCipherCommands. -/
theorem test_witness_cipher :
    (∃ t, exec .roundf (poked []) = .next t) ∧ (∃ t, exec .keysched (poked []) = .next t) ∧
      (∃ t, exec (.encblk false) (poked []) = .next t) ∧ ∃ t, exec (.decblk true) (poked []) = .next t :=
  ⟨⟨_, rfl⟩, ⟨_, rfl⟩, ⟨_, rfl⟩, ⟨_, rfl⟩⟩

/-- RefusedAccessesAreAnsweredWithAnErrorAndChangeNothing: each ground at its boundary, and three accesses that none meets. -/
theorem test_witness_refused_accesses :
    refusedAccess 0x01C .word ∧ refusedAccess 0x03F .byte ∧ refusedAccess 0x0A0 .byte ∧ refusedAccess 0x0BF .byte ∧
    refusedAccess 0x2C0 .byte ∧ refusedAccess 0x101 .half ∧ refusedAccess 0x01A .half ∧
    ¬ refusedAccess 0x018 .word ∧ ¬ refusedAccess 0x09F .byte ∧ ¬ refusedAccess 0x2BE .half := by
  have far : ∀ off width, reservedOffset off → refusedAccess off width := fun off width h =>
    .inl ⟨0, by cases width <;> decide, by simpa using h⟩
  refine ⟨far _ _ (by simp [reservedOffset]), far _ _ (by simp [reservedOffset]), far _ _ (by simp [reservedOffset]),
    far _ _ (by simp [reservedOffset]), far _ _ (by simp [reservedOffset]), .inr (.inl (by decide)),
    .inr (.inr (by decide)), ?_, ?_, ?_⟩ <;>
  · simp only [refusedAccess, reservedOffset, Width.bytes]
    rintro (⟨k, hk, h⟩ | h | h)
    · omega
    · exact absurd h (by decide)
    · exact absurd h (by decide)

/-- WindowAccessesAreLittleEndian and the statements about accesses while BUSY = 1: aligned accesses at the ends of the windows. -/
theorem test_witness_window_accesses :
    Memory.wf (poked []).mem = true ∧ (poked []).busy = false ∧ (runningWord 0#32).busy = true ∧
    (windowOffset 0x040 ∧ 0x040 % Width.bytes .word = 0) ∧ (windowOffset 0x09C ∧ 0x09C % Width.bytes .word = 0) ∧
    (windowOffset 0x0C0 ∧ 0x0C0 % Width.bytes .word = 0) ∧ (windowOffset 0x2BF ∧ 0x2BF % Width.bytes .byte = 0) := by
  refine ⟨by decide, rfl, rfl, ⟨?_, rfl⟩, ⟨?_, rfl⟩, ⟨?_, rfl⟩, ⟨?_, rfl⟩⟩ <;> simp [windowOffset]

/-- HostCannotChangeARunningCommand, HostTurnMakesTheNextAccess: both outcomes of `wait`. -/
theorem test_witness_wait :
    hostTurn { runningWord 0#32 with host := wait } =
      { runningWord 0#32 with host := wait, responses := [.data 0x00000003#32] } ∧
    hostTurn { poked [] with host := wait } = { poked [] with responses := [.data 0x00000002#32] } := by decide +kernel

/-- ScalarRegistersReadAsTheirFields: each of the six codes of R231, as read. -/
theorem test_witness_errcode :
    [ErrCode.noError, .illegalOp, .reservedBits, .badCount, .logZero, .expRange].map
        (fun c => (busRead 0x00C .word { poked [] with errcode := c }).1) =
      [0#32, 1#32, 2#32, 3#32, 4#32, 5#32].map .data := by decide +kernel

/-- InitialisationIsTheFirstStep: an initialising and an idle state. -/
theorem test_witness_conditions : State.reset.initialising ∧ (poked []).idle := ⟨⟨rfl, rfl⟩, ⟨rfl, rfl⟩⟩

/-- EveryStepKeepsTheInvariant: a running core with bytes in a window, whose next step completes a command. -/
theorem test_witness_invariant :
    State.Inv (accept 0x00800202#32 (poked [(.xs, [0x01#8])])) ∧
    ∃ t, step (accept 0x00800202#32 (poked [(.xs, [0x01#8])])) = .next t := by
  refine ⟨⟨by decide +kernel, by decide +kernel, .inr (.inr ⟨rfl, rfl⟩), fun _ => rfl, fun _ => rfl, fun _ => rfl, ?_⟩, ⟨_, rfl⟩⟩
  rintro ⟨_, h⟩
  cases h

/-- OvrIsClearedByResetOrByTheHostOnly: both ways. -/
theorem test_witness_ovr_cleared :
    step { poked [] with ovr := true, turns := [.reset] } = .next State.reset ∧ State.reset.ovr = false ∧
    step { poked [] with ovr := true, turns := [.host], host := sw 0x008 0x10#32 } =
      .next { poked [] with responses := [.ack] } ∧ (poked []).ovr = false := ⟨rfl, rfl, rfl, rfl⟩

/-- ResultChangesOnlyByResetOrByItsCommands: both ways. -/
theorem test_witness_result_changes :
    step { poked [] with result := 0x55#8, turns := [.reset] } = .next State.reset ∧ State.reset.result ≠ 0x55#8 ∧
    step (runningWord 0x00CA5301#32) = .next { runningWord 0x00CA5301#32 with result := 0x99#8, busy := false, done := true } ∧
    (runningWord 0x00CA5301#32).result = 0x00#8 := ⟨rfl, by decide, rfl, rfl⟩

end Sys2Proof.Tests.Slice0
end

section
/-! SUPPORT. What a bus access, an agent's turn and a step can do to READY, OVR and RESULT, said once, and the statements of
10_state.md that rest on it (R22, R24–R30). -/

namespace Sys2Proof.Machine

/-! ### The scalar registers on the bus -/

/-- A target comes from a row of the register map whose range holds the offset (R61). -/
theorem targetAt_row {off : Nat} {t : Target} (h : targetAt off = some t) :
    ∃ row ∈ registerMap, row.1 ≤ off ∧ off < row.1 + row.2.1 ∧ row.2.2 = t := by
  obtain ⟨row, hrow, rfl⟩ := Option.map_eq_some_iff.1 h
  have hrange := List.find?_some hrow
  rw [Bool.and_eq_true, decide_eq_true_eq, decide_eq_true_eq] at hrange
  exact ⟨row, List.mem_of_find?_eq_some hrow, hrange.1, hrange.2, rfl⟩

/-- Every offset with a scalar target is one of that register's four bytes (R61). -/
theorem targetAt_scalar_bounds {off : Nat} {r : ScalarReg} (h : targetAt off = some (.scalar r)) :
    r.offset ≤ off ∧ off < r.offset + 4 := by
  have rows : ∀ row ∈ registerMap, row.2.2 = .scalar r → row.1 = r.offset ∧ row.2.1 = 4 := by
    cases r <;> decide
  obtain ⟨row, hmem, hlo, hhi, ht⟩ := targetAt_row h
  obtain ⟨hbase, hsize⟩ := rows row hmem ht
  omega

/-- A scalar register is reached by the word access at its offset and by no other (R61, R68, R69). -/
theorem checkAccess_scalar_iff {off : Nat} {width : Width} {r : ScalarReg} :
    checkAccess off width = .ok (.scalar r) ↔ off = r.offset ∧ width = .word := by
  constructor
  · intro h
    obtain ⟨halign, htarget, hword⟩ := checkAccess_ok h
    obtain rfl : width = .word := hword r rfl
    have hbounds := targetAt_scalar_bounds (htarget 0 (by decide))
    have hoff : r.offset % 4 = 0 := by cases r <;> rfl
    simp only [Width.bytes] at halign
    exact ⟨by omega, rfl⟩
  · rintro ⟨rfl, rfl⟩
    cases r <;> rfl

/-- A word read of a scalar register gives its value and changes nothing, unless a running command makes it a draw (R73, R74). -/
theorem busRead_scalar (r : ScalarReg) {s : State} (h : (s.busy && (Target.scalar r).isData) = false) :
    busRead r.offset .word s = (.data (s.scalarValue r), s) := by
  simp [busRead, checkAccess_scalar_iff.2 ⟨rfl, rfl⟩, h, State.targetValue]

/-- A word write to a scalar register reaches it and is acknowledged (R65, R71). -/
theorem busWrite_scalar (r : ScalarReg) (v : Word) (s : State) :
    busWrite r.offset .word v s = (.ack, writeTarget r.offset .word v (.scalar r) s) := by
  simp [busWrite, checkAccess_scalar_iff.2 ⟨rfl, rfl⟩]

/-! ### Registers as words -/

@[simp] theorem State.err_iff (s : State) : s.err = true ↔ s.errcode ≠ .noError := by
  simp only [State.err, decide_eq_true_eq]
  cases s.errcode <;> decide

theorem State.getLsbD_ctrlWord (s : State) (k : Nat) : s.ctrlWord.getLsbD k = (decide (k = 0) && s.irqEn) :=
  getLsbD_flagBit s.irqEn (by decide) k

theorem State.getLsbD_statusWord (s : State) (k : Nat) :
    s.statusWord.getLsbD k = ((decide (k = 0) && s.busy) || (decide (k = 1) && s.ready) || (decide (k = 2) && s.done) ||
      (decide (k = 3) && s.err) || (decide (k = 4) && s.ovr)) := by
  simp [State.statusWord, getLsbD_flagBit]

/-! ### Bus accesses -/

/-- A read changes at most the count of free bytes (R74). -/
theorem busRead_snd (off : Nat) (width : Width) (s : State) :
    ∃ n, (busRead off width s).2 = { s with draws := s.draws + n } := by
  unfold busRead
  split
  · exact ⟨0, rfl⟩
  · split
    · exact ⟨width.bytes, rfl⟩
    · exact ⟨0, rfl⟩

/-- A write is refused and changes nothing, or passes the checks and reaches its target (R70). -/
theorem busWrite_snd (off : Nat) (width : Width) (v : Word) (s : State) :
    (busWrite off width v s).2 = s ∨
      ∃ t, checkAccess off width = .ok t ∧ (busWrite off width v s).2 = writeTarget off width v t s := by
  unfold busWrite
  split
  · exact .inl rfl
  · exact .inr ⟨_, ‹_›, rfl⟩

/-- Only a write of 1 to STATUS bit 4 clears OVR (R26, R236). -/
theorem writeTarget_clears_ovr {off : Nat} {width : Width} {v : Word} {t : Target} {s : State} (hs : s.ovr = true)
    (h : (writeTarget off width v t s).ovr = false) : t = .scalar .status ∧ v.getLsbD 4 = true := by
  cases t with
  | window w =>
    simp only [writeTarget] at h
    split at h <;> simp [hs] at h
  | scalar r =>
    cases r with
    | status => exact ⟨rfl, by simpa [writeTarget, hs] using h⟩
    | cmd | iv =>
      simp only [writeTarget] at h
      split at h <;> simp [hs] at h
    | id | ctrl | errcode | result => simp [writeTarget, hs] at h

/-! ### The host's turn -/

/-- The host's turn does nothing, makes a read, or makes the write at the head of its list (R74; `wait` is a read). -/
theorem hostTurn_cases (s : State) :
    hostTurn s = s ∨
    (∃ off width rest, hostTurn s = perform (busRead off width) { s with host := rest }) ∨
    ∃ off width v rest, s.host = .write off width v :: rest ∧
      hostTurn s = perform (busWrite off width v) { s with host := rest } := by
  unfold hostTurn
  split
  · exact .inl rfl
  · exact .inr (.inl ⟨_, _, _, rfl⟩)
  · exact .inr (.inr ⟨_, _, _, _, ‹_›, rfl⟩)
  · exact .inr (.inl ⟨_, _, _, rfl⟩)

/-- The host cannot write READY or RESULT (R71). -/
theorem hostTurn_readOnly (s : State) : (hostTurn s).ready = s.ready ∧ (hostTurn s).result = s.result := by
  obtain h | ⟨off, width, rest, h⟩ | ⟨off, width, v, rest, -, h⟩ := hostTurn_cases s
  · simp [h]
  · obtain ⟨n, hn⟩ := busRead_snd off width { s with host := rest }
    simp [h, perform, hn]
  · obtain hw | ⟨t, -, hw⟩ := busWrite_snd off width v { s with host := rest }
    · simp [h, perform, hw]
    · obtain ⟨-, -, -, -, hready, hresult⟩ := writeTarget_agents off width v t { s with host := rest }
      simp [h, perform, hw, hready, hresult]

/-- The host clears OVR only by a word write to STATUS whose bit 4 is 1 (R26, R236). -/
theorem hostTurn_clears_ovr {s : State} (hs : s.ovr = true) (h : (hostTurn s).ovr = false) :
    ∃ v rest, s.host = .write 0x008 .word v :: rest ∧ v.getLsbD 4 = true := by
  obtain ht | ⟨off, width, rest, ht⟩ | ⟨off, width, v, rest, hhost, ht⟩ := hostTurn_cases s
  · simp [ht, hs] at h
  · obtain ⟨n, hn⟩ := busRead_snd off width { s with host := rest }
    rw [ht, perform, State.respond_ovr, hn] at h
    simp [hs] at h
  · rw [ht, perform, State.respond_ovr] at h
    obtain hw | ⟨t, hok, hw⟩ := busWrite_snd off width v { s with host := rest }
    · rw [hw] at h
      simp [hs] at h
    · rw [hw] at h
      obtain ⟨rfl, hv⟩ := writeTarget_clears_ovr (s := { s with host := rest }) hs h
      obtain ⟨rfl, rfl⟩ := checkAccess_scalar_iff.1 hok
      exact ⟨v, rest, hhost, hv⟩

/-! ### The engine's turn -/

/-- The engine's turn initialises, runs PENDING, reports a word that does not decode, or is idle (R95, R120, R122, R262). -/
theorem engineTurn_cases {s t : State} (h : engineTurn s = .next t) :
    (s.ready = false ∧ t = initialise s) ∨
    (s.running ∧ ∃ i, decode s.pending = .ok i ∧ exec i s = .next t) ∨
    (s.running ∧ ∃ e, decode s.pending = .error e ∧ t = raiseCmdError (.ofDecodeError e) s) ∨
    (s.idle ∧ t = s) := by
  cases hready : s.ready with
  | false =>
    rw [engineTurn_initialising hready] at h
    cases h
    exact .inl ⟨rfl, rfl⟩
  | true =>
    cases hbusy : s.busy with
    | false =>
      have hidle : s.idle := ⟨hbusy, hready⟩
      rw [engineTurn_idle hidle] at h
      cases h
      exact .inr (.inr (.inr ⟨hidle, rfl⟩))
    | true =>
      have hrun : s.running := ⟨hbusy, hready⟩
      rw [engineTurn_running hrun, completionStep] at h
      cases hdec : decode s.pending with
      | ok i =>
        rw [hdec] at h
        exact .inr (.inl ⟨hrun, i, rfl, h⟩)
      | error e =>
        rw [hdec] at h
        cases h
        exact .inr (.inr (.inl ⟨hrun, e, rfl, rfl⟩))

/-- After the engine's turn the core is initialised (R26, R262), and OVR is as before (R236). -/
theorem engineTurn_ready_ovr {s t : State} (h : engineTurn s = .next t) : t.ready = true ∧ t.ovr = s.ovr := by
  obtain ⟨-, rfl⟩ | ⟨hrun, i, -, hexec⟩ | ⟨hrun, e, -, rfl⟩ | ⟨hidle, rfl⟩ := engineTurn_cases h
  · simp
  · obtain ⟨-, -, -, hready, hovr, -⟩ := exec_agents hexec
    exact ⟨hready.trans hrun.2, hovr⟩
  · simp [hrun.2]
  · exact ⟨hidle.2, rfl⟩

@[simp] theorem checked_errcode (code : ErrCode) (effect : State → State) (s : State) :
    (checked code effect s).errcode = code := by
  cases code <;> rfl

@[simp] theorem checked_result (code : ErrCode) (effect : State → State) (s : State) :
    (checked code effect s).result = if code = .noError then (effect s).result else s.result := by
  cases code <;> rfl

@[simp] theorem interpEffect_result (n : Nat) (s : State) : (interpEffect n s).result = s.result := by
  unfold interpEffect
  split <;> simp

@[simp] theorem blockEffect_result (keys : BlockKeys) (b : List Byte) (inc : Bool) (s : State) :
    (blockEffect keys b inc s).result = s.result := by simp [blockEffect]

/-- A command that changes RESULT is one of R29's six and completes without error. -/
theorem exec_changes_result {i : Instr} {s t : State} (h : exec i s = .next t) (hne : t.result ≠ s.result) :
    writesResult i = true ∧ t.errcode = .noError := by
  cases i with
  | nop | roundf | keysched => cases h; simp at hne
  | encblk inc | decblk inc => cases h; simp at hne
  | interp n | shuffle n => cases h; simp at hne
  | gfadd a b | gfmul a b | gfdiv a b => cases h; exact ⟨rfl, rfl⟩
  | gflog a | gfexp idx | eval n x =>
    cases h
    rw [checked_result, ne_eq, ite_eq_right_iff, Classical.not_imp] at hne
    exact ⟨rfl, by rw [checked_errcode, hne.1]⟩

/-- The engine changes RESULT only by completing one of R29's six commands without error. -/
theorem engineTurn_changes_result {s t : State} (h : engineTurn s = .next t) (hne : t.result ≠ s.result) :
    s.running ∧ t.errcode = .noError ∧ ∃ i, decode s.pending = .ok i ∧ writesResult i = true := by
  obtain ⟨-, rfl⟩ | ⟨hrun, i, hdec, hexec⟩ | ⟨-, e, -, rfl⟩ | ⟨-, rfl⟩ := engineTurn_cases h
  · exact absurd rfl hne
  · obtain ⟨hwrites, herr⟩ := exec_changes_result hexec hne
    exact ⟨hrun, herr, i, hdec, hwrites⟩
  · exact absurd rfl hne
  · exact absurd rfl hne

/-! ### A step -/

/-- A step that answers a next state is a reset, the engine's turn or the host's turn, in a state that differs in the listed
turns only (R76; log 3). -/
theorem step_next_cases {s t : State} (h : step s = .next t) :
    (∃ rest, s.turns = .reset :: rest) ∨
    (((∃ rest, s.turns = .engine :: rest) ∨ s.turns = []) ∧ ∃ turns, engineTurn { s with turns := turns } = .next t) ∨
    (((∃ rest, s.turns = .host :: rest) ∨ (s.turns = [] ∧ s.busy = false)) ∧
      ∃ turns, t = hostTurn { s with turns := turns }) := by
  obtain ⟨rest, ht, hs⟩ | ⟨rest, ht, hs⟩ | ⟨rest, ht, -⟩ | ⟨ht, -, hs⟩ | ⟨ht, hoff, hs⟩ := step_cases s
  · exact .inr (.inl ⟨.inl ⟨rest, ht⟩, rest, hs.symm.trans h⟩)
  · rw [hs] at h
    cases h
    exact .inr (.inr ⟨.inl ⟨rest, ht⟩, rest, rfl⟩)
  · exact .inl ⟨rest, ht⟩
  · exact .inr (.inl ⟨.inr ht, s.turns, hs.symm.trans h⟩)
  · rw [hs] at h
    cases h
    have hbusy : s.busy = false := by
      rw [engineEnabled, Bool.or_eq_false_iff] at hoff
      exact hoff.2
    exact .inr (.inr ⟨.inr ⟨ht, hbusy⟩, s.turns, rfl⟩)

/-! ### The statements -/

/-- Settles O58: the engine leaves READY at 1 and the host cannot write it, so only the reset turn is left. -/
theorem readyIsClearedByResetOnly : Obligations.ReadyIsClearedByResetOnly := by
  intro s t h hs ht
  obtain hreset | ⟨-, turns, heng⟩ | ⟨-, turns, rfl⟩ := step_next_cases h
  · exact hreset
  · simp [(engineTurn_ready_ovr heng).1] at ht
  · simp [(hostTurn_readOnly _).1, hs] at ht

/-- Settles O59: the engine keeps OVR, and of the host's accesses only the word write to STATUS clears it. -/
theorem ovrIsClearedByResetOrByTheHostOnly : Obligations.OvrIsClearedByResetOrByTheHostOnly := by
  intro s t h hs ht
  obtain hreset | ⟨-, turns, heng⟩ | ⟨hturn, turns, rfl⟩ := step_next_cases h
  · exact .inl hreset
  · simp [(engineTurn_ready_ovr heng).2, hs] at ht
  · exact .inr ⟨hturn, hostTurn_clears_ovr (s := { s with turns := turns }) hs ht⟩

/-- Settles O60: the host cannot write RESULT, and the engine does so only by one of the six commands. -/
theorem resultChangesOnlyByResetOrByItsCommands : Obligations.ResultChangesOnlyByResetOrByItsCommands := by
  intro s t h hne
  obtain hreset | ⟨hturn, turns, heng⟩ | ⟨-, turns, rfl⟩ := step_next_cases h
  · exact .inl hreset
  · obtain ⟨hrun, herr, hcmd⟩ := engineTurn_changes_result heng hne
    exact .inr ⟨hrun, hturn, herr, hcmd⟩
  · exact absurd (hostTurn_readOnly _).2 hne

/-- Settles O48: each register's word read is `busRead_scalar`, and the words' bits are those of their flags. -/
theorem scalarRegistersReadAsTheirFields : Obligations.ScalarRegistersReadAsTheirFields := by
  intro s
  refine ⟨busRead_scalar .id (by simp [Target.isData]),
    ⟨_, busRead_scalar .ctrl (by simp [Target.isData]), ?ctrl⟩,
    ⟨_, busRead_scalar .status (by simp [Target.isData]), ?status⟩,
    ⟨_, busRead_scalar .errcode (by simp [Target.isData]), ?errcode⟩,
    busRead_scalar .cmd (by simp [Target.isData]), fun hbusy =>
    ⟨⟨_, busRead_scalar .result (by simp [hbusy]), ?result⟩, busRead_scalar .iv (by simp [hbusy])⟩⟩
  case ctrl =>
    simp only [State.scalarValue, State.getLsbD_ctrlWord]
    exact ⟨by simp, fun k hk => by simp [show k ≠ 0 by omega]⟩
  case status =>
    simp only [State.scalarValue, State.getLsbD_statusWord]
    refine ⟨by simp, by simp, by simp, by simp, by simp, fun k hk => ?_⟩
    simp [show k ≠ 0 by omega, show k ≠ 1 by omega, show k ≠ 2 by omega, show k ≠ 3 by omega, show k ≠ 4 by omega]
  case errcode =>
    simp only [State.scalarValue]
    cases s.errcode <;> decide
  case result =>
    simp only [State.scalarValue, BitVec.toNat_setWidth]
    omega

/-- Settles O50: the three word writes are `busWrite_scalar`, and each write's update names the fields it changes. -/
theorem statusWritesClearDoneAndOvr : Obligations.StatusWritesClearDoneAndOvr := by
  intro v s
  refine ⟨writeStatus v s, writeCtrl v s, busWrite_scalar .status v s, rfl, rfl, rfl, ?irq, busWrite_scalar .ctrl v s, rfl,
    fun hbusy => ?iv⟩
  case irq =>
    intro hv
    simp [State.irq, hv]
  case iv =>
    have h := busWrite_scalar .iv v s
    rw [writeTarget, if_neg (by simp [hbusy])] at h
    exact h

end Sys2Proof.Machine
end

section
/-! SUPPORT. What a window, an engine and a bus access leave unchanged, said once, and the statements of 20_memory.md that rest
on it (R62, R64–R74, R76, R79). -/

namespace Sys2Proof.Machine

/-! ### Windows apart from each other -/

/-- A byte of one window lies outside every other window (R61, R62). -/
theorem Window.outside_of_ne {w w' : Window} (hne : w ≠ w') {i : Nat} (hi : i < w.size) :
    w.base + i < w'.base ∨ w'.base + w'.size ≤ w.base + i := by
  by_contra hin
  have hw := targetAt_window w hi
  have hw' := targetAt_window w' (i := w.base + i - w'.base) (by omega)
  rw [show w'.base + (w.base + i - w'.base) = w.base + i by omega, hw] at hw'
  cases hw'
  exact hne rfl

theorem State.take_buffer (s : State) (w : Window) {n : Nat} (hn : n ≤ w.size) : (s.buffer w).take n = s.bytes w n := by
  simp [State.buffer, State.bytes, Memory.readBytes, ← List.map_take, List.take_range, Nat.min_eq_left hn]

@[simp] theorem buffer_complete (s : State) (w : Window) : (complete s).buffer w = s.buffer w := rfl

theorem State.store_frame (s : State) (w : Window) (bs : List Byte) :
    s.store w bs = { s with mem := (s.store w bs).mem } := rfl

/-- A window filled by a store holds the bytes stored. -/
theorem State.buffer_store_same {s : State} (hm : Memory.wf s.mem = true) {w : Window} {bs : List Byte}
    (hlen : bs.length = w.size) : (s.store w bs).buffer w = bs := by
  rw [State.buffer, State.bytes, ← hlen]
  exact Memory.readBytes_writeBytes_same hm w.base bs

/-- A store into one window leaves every other as it is (R62). -/
theorem State.buffer_store_of_ne (s : State) {w w' : Window} (hne : w ≠ w') {bs : List Byte} (hlen : bs.length ≤ w'.size) :
    (s.store w' bs).buffer w = s.buffer w := by
  refine List.ext_getElem (by simp) fun i hi _ => ?_
  rw [length_buffer] at hi
  have hout := Window.outside_of_ne hne hi
  simp only [State.buffer, State.bytes, Memory.getElem_readBytes, State.store_mem]
  exact Memory.read_writeBytes_outside _ _ _ (by omega)

/-- A store of all of K2 that keeps its upper half changes no byte outside K2[0..31]. -/
theorem State.read_store_lower_k2 {s : State} (hm : Memory.wf s.mem = true) {bs : List Byte} (hlen : bs.length = 64)
    (hkeep : bs.drop 32 = (s.buffer .k2).drop 32) {a : Nat} (ha : a < Window.k2.base ∨ Window.k2.base + 32 ≤ a) :
    Memory.read (s.store .k2 bs).mem a = Memory.read s.mem a := by
  by_cases hup : Window.k2.base + 32 ≤ a ∧ a < Window.k2.base + 64
  · obtain ⟨i, rfl⟩ := Nat.exists_eq_add_of_le hup.1
    have hi : i < 32 := by omega
    have hbyte : bs[32 + i]? = (s.buffer .k2)[32 + i]? := by
      simpa using congrArg (·[i]?) hkeep
    have hsize : 32 + i < (s.buffer .k2).length := by
      rw [length_buffer, Window.size]
      omega
    rw [List.getElem?_eq_getElem (by omega), List.getElem?_eq_getElem hsize, Option.some.injEq] at hbyte
    rw [State.store_mem, Nat.add_assoc, Memory.read_writeBytes_inside hm _ _ (by omega), hbyte]
    exact Memory.getElem_readBytes _ _ _ _ _
  · exact Memory.read_writeBytes_outside _ _ _ (by omega)

/-- The stores of KEYSCHED, ENCBLK and DECBLK: a whole window w, then K1, then K2 with its upper half kept. -/
def State.storeKeyed (s : State) (w : Window) (bs k1 k2 : List Byte) : State :=
  ((s.store w bs).store .k1 k1).store .k2 k2

theorem State.storeKeyed_frame (s : State) (w : Window) (bs k1 k2 : List Byte) :
    s.storeKeyed w bs k1 k2 = { s with mem := (s.storeKeyed w bs k1 k2).mem } := rfl

/-- The keyed stores change no byte outside w, K1 and K2[0..31] (R64). -/
theorem State.read_storeKeyed_outside {s : State} (hm : Memory.wf s.mem = true) {w : Window} (hw : w ≠ .k2)
    {bs k1 k2 : List Byte} (hbs : bs.length = w.size) (hk1 : k1.length = 32) (hk2 : k2.length = 64)
    (hkeep : k2.drop 32 = (s.buffer .k2).drop 32) {a : Nat} (haw : a < w.base ∨ w.base + w.size ≤ a)
    (ha1 : a < Window.k1.base ∨ Window.k1.base + 32 ≤ a) (ha2 : a < Window.k2.base ∨ Window.k2.base + 32 ≤ a) :
    Memory.read (s.storeKeyed w bs k1 k2).mem a = Memory.read s.mem a := by
  have hbuf : ((s.store w bs).store .k1 k1).buffer .k2 = s.buffer .k2 := by
    rw [State.buffer_store_of_ne _ (by decide) (by simp [hk1, Window.size]), State.buffer_store_of_ne _ hw.symm hbs.le]
  calc Memory.read (s.storeKeyed w bs k1 k2).mem a
      = Memory.read ((s.store w bs).store .k1 k1).mem a :=
        State.read_store_lower_k2 (Memory.writeBytes_wf (Memory.writeBytes_wf hm _ _) _ _) hk2 (by rw [hbuf, hkeep]) ha2
    _ = Memory.read (s.store w bs).mem a := Memory.read_writeBytes_outside _ _ _ (by omega)
    _ = Memory.read s.mem a := Memory.read_writeBytes_outside _ _ _ (by omega)

/-- After the keyed stores each of the three windows holds what was stored to it. -/
theorem State.buffer_storeKeyed {s : State} (hm : Memory.wf s.mem = true) {w : Window} (hw1 : w ≠ .k1) (hw2 : w ≠ .k2)
    {bs k1 k2 : List Byte} (hbs : bs.length = w.size) (hk1 : k1.length = 32) (hk2 : k2.length = 64) :
    (s.storeKeyed w bs k1 k2).buffer w = bs ∧ (s.storeKeyed w bs k1 k2).buffer .k1 = k1 ∧
      (s.storeKeyed w bs k1 k2).buffer .k2 = k2 := by
  have hm1 : Memory.wf (s.store w bs).mem = true := Memory.writeBytes_wf hm _ _
  have hm2 : Memory.wf ((s.store w bs).store .k1 k1).mem = true := Memory.writeBytes_wf hm1 _ _
  refine ⟨?_, ?_, State.buffer_store_same hm2 hk2⟩
  · rw [State.storeKeyed, State.buffer_store_of_ne _ hw2 hk2.le, State.buffer_store_of_ne _ hw1 hk1.le,
      State.buffer_store_same hm hbs]
  · rw [State.storeKeyed, State.buffer_store_of_ne _ (by decide) hk2.le, State.buffer_store_same hm1 hk1]

/-! ### What the engines do not read -/

/-- The shuffle never reads seed[0] (R180). -/
theorem shuffleFrom_congr_tail {seed seed' : List Byte} (h : seed.tail = seed'.tail) (top : Nat) (seq : List Byte) :
    shuffleFrom seed top seq = shuffleFrom seed' top seq := by
  have hget (i : Nat) : seed.getD (i + 1) 0x00#8 = seed'.getD (i + 1) 0x00#8 := by
    simpa using congrArg (·.getD i 0x00#8) h
  induction top generalizing seq with
  | zero => rfl
  | succ i ih => rw [shuffleFrom, shuffleFrom, hget, ih]

theorem shuffle_congr_tail {seed seed' : List Byte} (h : seed.tail = seed'.tail) (seq : List Byte) (n : Nat) :
    shuffle seed seq n = shuffle seed' seq n :=
  shuffleFrom_congr_tail h (n - 1) seq

/-- F never reads k2[0] (R192). -/
theorem roundFunction_congr_tail {k2 k2' : List Byte} (h : k2.tail = k2'.tail) (half rk : List Byte) :
    roundFunction half rk k2 = roundFunction half rk k2' := by
  rw [roundFunction, roundFunction, shuffle_congr_tail h]

/-- KS computes from k2[1..31] alone; k2[32..63] are only passed on (R202). -/
theorem keySchedule_congr_tail {k2 k2' : List Byte} (h : (k2.take 32).tail = (k2'.take 32).tail) (input : List Byte) :
    (keySchedule input k2).out = (keySchedule input k2').out ∧ (keySchedule input k2).next = (keySchedule input k2').next ∧
      (keySchedule input k2).k2.take 32 = (keySchedule input k2').k2.take 32 := by
  simp only [keySchedule, shuffle_congr_tail h, true_and]
  rw [List.take_left' (by simp), List.take_left' (by simp)]

/-! ### What a completion leaves unchanged -/

/-- A checked command ends in its effect or in its error (R123). -/
theorem checked_cases (code : ErrCode) (effect : State → State) (s : State) :
    checked code effect s = complete (effect s) ∨ checked code effect s = raiseCmdError code s := by
  cases code with
  | noError => exact .inl rfl
  | illegalOp | reservedBits | badCount | logZero | expRange => exact .inr rfl

/-- INTERP's effect stores n bytes to COEF, and counts free bytes only when two xs are equal (R163). -/
theorem interpEffect_cases (n : Nat) (s : State) :
    ∃ (bs : List Byte) (draws : Nat), bs.length = n ∧
      interpEffect n s = { s with mem := Memory.writeBytes s.mem Window.coef.base bs, draws := draws } ∧
      ((s.bytes .xs n).Nodup → draws = s.draws) := by
  by_cases hd : (s.bytes .xs n).Nodup
  · exact ⟨interpolate (s.bytes .xs n) (s.bytes .ys n), s.draws, by simp, if_pos hd, fun _ => rfl⟩
  · exact ⟨(drawBytes n s).1, s.draws + n, by simp, if_neg hd, fun h => absurd h hd⟩

/-- A completion with a RESULT, or its error, writes RESULT, ERRCODE, BUSY and DONE only (R122, R232). -/
theorem checked_setResult_frame (code : ErrCode) (value : State → Byte) {s t : State}
    (ht : t = checked code (fun s => s.setResult (value s)) s) :
    t = { s with result := t.result, errcode := t.errcode, busy := t.busy, done := t.done } := by
  subst ht
  obtain h | h := checked_cases code (fun s => s.setResult (value s)) s <;> rw [h] <;> rfl

/-- The commands that store nothing write RESULT, ERRCODE, BUSY and DONE only (R64). -/
theorem exec_storesNothing_frame {i : Instr} {s t : State} (hi : storesNothing i = true) (h : exec i s = .next t) :
    t = { s with result := t.result, errcode := t.errcode, busy := t.busy, done := t.done } := by
  cases i with
  | nop | gfadd a b | gfmul a b | gfdiv a b => cases h; rfl
  | gflog a | gfexp idx | eval n x => cases h; exact checked_setResult_frame _ _ rfl
  | interp n | shuffle n | roundf | keysched | encblk inc | decblk inc => cases hi

/-- A completion that only stored to windows writes ERRCODE, BUSY and DONE beside (R122). -/
theorem complete_frame_of_mem {s t u : State} (ht : t = complete u) (hu : u = { s with mem := u.mem }) :
    t = { s with mem := t.mem, errcode := t.errcode, busy := t.busy, done := t.done } := by
  rw [ht, hu]
  rfl

theorem exec_roundf (s : State) : exec .roundf s =
    .next (complete (s.store .fout (roundFunction (s.buffer .fin) (s.buffer .rk) (s.buffer .k2)))) := rfl

theorem exec_keysched (s : State) :
    exec .keysched s = .next (complete (s.storeKeyed .ksout (keySchedule (s.buffer .k1) (s.buffer .k2)).out
      (keySchedule (s.buffer .k1) (s.buffer .k2)).next (keySchedule (s.buffer .k1) (s.buffer .k2)).k2)) := rfl

theorem exec_encblk (inc : Bool) (s : State) : exec (.encblk inc) s =
    .next (complete (blockEffect s.blockKeys (encryptBlock s.blockKeys (s.buffer .block)) inc s)) := rfl

theorem exec_decblk (inc : Bool) (s : State) : exec (.decblk inc) s =
    .next (complete (blockEffect s.blockKeys (decryptBlock s.blockKeys (s.buffer .block)) inc s)) := rfl

theorem blockEffect_eq (keys : BlockKeys) (b : List Byte) (inc : Bool) (s : State) :
    blockEffect keys b inc s = (s.storeKeyed .block b keys.k1 keys.k2).bumpIv inc := rfl

/-- The effect of ENCBLK and DECBLK with an evolved key that keeps K2[32..63]: BLOCK, K1, K2[0..31] and, with INC, IV (R64, R212,
R213). -/
theorem complete_blockEffect_frame {s : State} (hm : Memory.wf s.mem = true) {keys : BlockKeys} (hk1 : keys.k1.length = 32)
    (hk2 : keys.k2.length = 64) (hkeep : keys.k2.drop 32 = (s.buffer .k2).drop 32) {b : List Byte} (hb : b.length = 64)
    {inc : Bool} {t : State} (ht : t = complete (blockEffect keys b inc s)) :
    t = { s with mem := t.mem, iv := t.iv, errcode := t.errcode, busy := t.busy, done := t.done } ∧
      (inc = false → t.iv = s.iv) ∧
      (∀ a, a < Window.block.base ∨ Window.block.base + 64 ≤ a → a < Window.k1.base ∨ Window.k1.base + 32 ≤ a →
        a < Window.k2.base ∨ Window.k2.base + 32 ≤ a → Memory.read t.mem a = Memory.read s.mem a) := by
  subst ht
  refine ⟨by cases inc <;> rfl, fun hinc => by rw [hinc]; rfl, fun a hblock ha1 ha2 => ?_⟩
  rw [complete_mem, blockEffect_eq, State.bumpIv_mem]
  exact State.read_storeKeyed_outside hm (by decide) hb hk1 hk2 hkeep hblock ha1 ha2

/-- The key of a block has the sizes of K1 and K2 and keeps K2[32..63] (R200, R209). -/
theorem State.blockKeys_sizes (s : State) : s.blockKeys.k1.length = 32 ∧ s.blockKeys.k2.length = 64 ∧
    s.blockKeys.k2.drop 32 = (s.buffer .k2).drop 32 := by
  simp [State.blockKeys, Window.size]

/-! ### Access checks -/

/-- The scalar registers lie below the reserved range at 0x01C, the windows above it (R61). -/
theorem targetAt_scalar_below {off : Nat} {r : ScalarReg} (h : targetAt off = some (.scalar r)) : off < 0x01C := by
  have hr : r.offset ≤ 0x018 := by cases r <;> decide
  have := targetAt_scalar_bounds h
  omega

theorem targetAt_window_above {off : Nat} {w : Window} (h : targetAt off = some (.window w)) : 0x040 ≤ off := by
  have hw : 0x040 ≤ w.base := by cases w <;> decide
  have := targetAt_window_bounds h
  omega

theorem Width.bytes_pos (width : Width) : 0 < width.bytes := by cases width <;> decide

/-- The check of R67 in terms of the reserved ranges. -/
theorem any_targetAt_isNone_iff (off : Nat) (width : Width) :
    (List.range width.bytes).any (fun k => (targetAt (off + k)).isNone) = true ↔
      ∃ k, k < width.bytes ∧ reservedOffset (off + k) := by
  simp [List.any_eq_true, targetAt_none_iff]

/-- The checks refuse exactly the accesses of R67, R68 and R69. -/
theorem checkAccess_error_iff (off : Nat) (width : Width) :
    (∃ e, checkAccess off width = .error e) ↔ refusedAccess off width := by
  unfold checkAccess refusedAccess
  rw [← any_targetAt_isNone_iff]
  split
  case isTrue hreserved => simp [hreserved]
  case isFalse hreserved =>
    split
    case isTrue halign => simp [halign]
    case isFalse halign =>
      have hsome : targetAt off ≠ none := fun hnone =>
        hreserved ((any_targetAt_isNone_iff off width).2 ⟨0, width.bytes_pos, (targetAt_none_iff off).1 hnone⟩)
      rw [or_iff_right hreserved, or_iff_right halign]
      match ht : targetAt off with
      | none => exact absurd ht hsome
      | some (.scalar r) => by_cases hw : width = .word <;> simp [hw, targetAt_scalar_below ht]
      | some (.window w) => simp [Nat.not_lt.2 (Nat.le_trans (by decide : 0x01C ≤ 0x040) (targetAt_window_above ht))]

/-- An access that is not refused has a target. -/
theorem checkAccess_ok_of_not_refused {off : Nat} {width : Width} (h : ¬ refusedAccess off width) :
    ∃ t, checkAccess off width = .ok t := by
  match hc : checkAccess off width with
  | .ok t => exact ⟨t, rfl⟩
  | .error e => exact absurd ((checkAccess_error_iff off width).1 ⟨e, hc⟩) h

/-- An aligned access in the range of the windows reaches a window (R61, R62, R66). -/
theorem checkAccess_window {off : Nat} {width : Width} (hoff : windowOffset off) (halign : off % width.bytes = 0) :
    ∃ w, checkAccess off width = .ok (.window w) := by
  have hlow : 0x040 ≤ off := by unfold windowOffset at hoff; omega
  have hok : ¬ refusedAccess off width := by
    rintro (⟨k, hk, hr⟩ | hmis | ⟨hscalar, -⟩)
    · unfold windowOffset at hoff
      unfold reservedOffset at hr
      cases width <;> simp only [Width.bytes] at hk halign <;> omega
    · exact hmis halign
    · omega
  obtain ⟨t, ht⟩ := checkAccess_ok_of_not_refused hok
  cases t with
  | window w => exact ⟨w, ht⟩
  | scalar r =>
    obtain ⟨-, htarget, -⟩ := checkAccess_ok ht
    have := targetAt_scalar_below (htarget 0 width.bytes_pos)
    omega

/-- The word accesses to RESULT and IV and the aligned ones to a window reach a target that reads free while BUSY = 1 (R73). -/
theorem checkAccess_data {off : Nat} {width : Width}
    (h : ((off = 0x014 ∨ off = 0x018) ∧ width = .word) ∨ (windowOffset off ∧ off % width.bytes = 0)) :
    ∃ t, checkAccess off width = .ok t ∧ t.isData = true := by
  obtain ⟨rfl | rfl, rfl⟩ | ⟨hoff, halign⟩ := h
  · exact ⟨.scalar .result, checkAccess_scalar_iff.2 ⟨rfl, rfl⟩, rfl⟩
  · exact ⟨.scalar .iv, checkAccess_scalar_iff.2 ⟨rfl, rfl⟩, rfl⟩
  · obtain ⟨w, hw⟩ := checkAccess_window hoff halign
    exact ⟨.window w, hw, rfl⟩

/-! ### The answers of a read and of a write -/

theorem busRead_refused {off : Nat} {width : Width} (h : refusedAccess off width) (s : State) :
    busRead off width s = (.error, s) := by
  obtain ⟨e, he⟩ := (checkAccess_error_iff off width).2 h
  simp only [busRead, he]

theorem busRead_value {off : Nat} {width : Width} {t : Target} (h : checkAccess off width = .ok t) {s : State}
    (hs : (s.busy && t.isData) = false) : busRead off width s = (.data (s.targetValue off width t), s) := by
  simp [busRead, h, hs]

theorem busRead_free {off : Nat} {width : Width} {t : Target} (h : checkAccess off width = .ok t) {s : State}
    (hs : (s.busy && t.isData) = true) :
    busRead off width s = (.data (littleEndian (drawBytes width.bytes s).1), (drawBytes width.bytes s).2) := by
  simp [busRead, h, hs]

theorem busWrite_refused {off : Nat} {width : Width} (h : refusedAccess off width) (v : Word) (s : State) :
    busWrite off width v s = (.error, s) := by
  obtain ⟨e, he⟩ := (checkAccess_error_iff off width).2 h
  simp only [busWrite, he]

theorem busWrite_ok {off : Nat} {width : Width} {t : Target} (h : checkAccess off width = .ok t) (v : Word) (s : State) :
    busWrite off width v s = (.ack, writeTarget off width v t s) := by
  simp [busWrite, h]

/-- A write to STATUS leaves ERR, which is computed from ERRCODE (R26, R71). -/
@[simp] theorem writeStatus_err (v : Word) (s : State) : (writeStatus v s).err = s.err := rfl

/-! ### Byte order -/

/-- Bit i of a little-endian word is bit i mod 8 of byte i / 8 (R65). -/
theorem getLsbD_littleEndian (bs : List Byte) (i : Nat) :
    (littleEndian bs).getLsbD i = (decide (i < 32) && (bs.getD (i / 8) 0x00#8).getLsbD (i % 8)) := by
  induction bs generalizing i with
  | nil => simp [littleEndian]
  | cons b bs ih =>
    rw [littleEndian, BitVec.getLsbD_or, BitVec.getLsbD_shiftLeft, BitVec.getLsbD_setWidth]
    by_cases hi : i < 8
    · simp [hi, Nat.div_eq_of_lt hi, Nat.mod_eq_of_lt hi]
    · have hdiv : i / 8 = (i - 8) / 8 + 1 := by omega
      have hmod : i % 8 = (i - 8) % 8 := by omega
      rw [ih, hdiv, hmod, List.getD_cons_succ, BitVec.getLsbD_of_ge b i (by omega)]
      by_cases h32 : i < 32
      · simp [hi, h32, show i - 8 < 32 by omega]
      · simp [h32]

/-- The word of at most four bytes has byte k in bits [8k+7:8k] (R65). -/
theorem extractLsb'_littleEndian {bs : List Byte} (hlen : bs.length ≤ 4) {k : Nat} (hk : k < bs.length) :
    (littleEndian bs).extractLsb' (8 * k) 8 = bs[k] := by
  refine BitVec.eq_of_getLsbD_eq fun j hj => ?_
  rw [BitVec.getLsbD_extractLsb', getLsbD_littleEndian, show (8 * k + j) / 8 = k by omega,
    show (8 * k + j) % 8 = j by omega, List.getD_eq_getElem _ _ hk]
  simp [hj, show 8 * k + j < 32 by omega]

/-- A little-endian word is zero above its bytes (log 12). -/
theorem toNat_littleEndian_lt (bs : List Byte) : (littleEndian bs).toNat < 2 ^ (8 * bs.length) := by
  refine Nat.lt_pow_two_of_testBit _ fun i hi => ?_
  rw [← BitVec.getLsbD, getLsbD_littleEndian, List.getD_eq_default _ _ (by omega)]
  simp

@[simp] theorem length_wordBytes (v : Word) (n : Nat) : (wordBytes v n).length = n := by simp [wordBytes]

@[simp] theorem getElem_wordBytes (v : Word) {n k : Nat} (hk : k < (wordBytes v n).length) :
    (wordBytes v n)[k] = v.extractLsb' (8 * k) 8 := by
  simp [wordBytes, wordByte]

/-! ### Accesses and the host's list -/

theorem writeTarget_withHost (off : Nat) (width : Width) (v : Word) (t : Target) (s : State) (ops : List HostOp) :
    writeTarget off width v t { s with host := ops } = { writeTarget off width v t s with host := ops } := by
  obtain ⟨irqEn, busy, _⟩ := s
  cases t with
  | window w => cases busy <;> rfl
  | scalar r =>
    cases r with
    | id | ctrl | status | errcode | result => rfl
    | cmd | iv => cases busy <;> rfl

/-- An access does not look at the host's list: its answer and its effect are those on the state before (R74). -/
theorem perform_busRead (off : Nat) (width : Width) (s : State) (rest : List HostOp) :
    perform (busRead off width) { s with host := rest } =
      { (busRead off width s).2 with host := rest, responses := s.responses ++ [(busRead off width s).1] } := by
  by_cases hr : refusedAccess off width
  · rw [perform, busRead_refused hr, busRead_refused hr]
    rfl
  · obtain ⟨t, ht⟩ := checkAccess_ok_of_not_refused hr
    cases hs : s.busy && t.isData with
    | false =>
      rw [perform, busRead_value ht hs, busRead_value (s := { s with host := rest }) ht hs]
      cases t with
      | window w => rfl
      | scalar r => cases r <;> rfl
    | true =>
      rw [perform, busRead_free ht hs, busRead_free (s := { s with host := rest }) ht hs]
      rfl

theorem perform_busWrite (off : Nat) (width : Width) (v : Word) (s : State) (rest : List HostOp) :
    perform (busWrite off width v) { s with host := rest } =
      { (busWrite off width v s).2 with host := rest, responses := s.responses ++ [(busWrite off width v s).1] } := by
  by_cases hr : refusedAccess off width
  · rw [perform, busWrite_refused hr, busWrite_refused hr]
    rfl
  · obtain ⟨t, ht⟩ := checkAccess_ok_of_not_refused hr
    obtain ⟨-, -, hresponses, -⟩ := writeTarget_agents off width v t s
    rw [perform, busWrite_ok ht, busWrite_ok ht, writeTarget_withHost, State.respond, hresponses]

/-! ### The host against a running command -/

/-- While BUSY = 1 a write changes IRQ_EN, DONE and OVR at most (R71, R72). -/
theorem writeTarget_busy {s : State} (hs : s.busy = true) (off : Nat) (width : Width) (v : Word) (t : Target) :
    ∃ irqEn done ovr, writeTarget off width v t s = { s with irqEn := irqEn, done := done, ovr := ovr } := by
  cases t with
  | window w => exact ⟨_, _, _, if_pos hs⟩
  | scalar r =>
    cases r with
    | id | ctrl | status | errcode | result => exact ⟨_, _, _, rfl⟩
    | cmd | iv => exact ⟨_, _, _, if_pos hs⟩

/-- While BUSY = 1 the host's turn changes its own side, the count of free bytes, IRQ_EN, DONE and OVR at most (R72, R74). -/
theorem hostTurn_busy {s : State} (hs : s.busy = true) : ∃ irqEn done ovr host responses draws,
    hostTurn s =
      { s with irqEn := irqEn, done := done, ovr := ovr, host := host, responses := responses, draws := draws } := by
  obtain h | ⟨off, width, rest, h⟩ | ⟨off, width, v, rest, -, h⟩ := hostTurn_cases s
  · exact ⟨_, _, _, _, _, _, h⟩
  · obtain ⟨n, hn⟩ := busRead_snd off width { s with host := rest }
    rw [h, perform, hn]
    exact ⟨_, _, _, _, _, _, rfl⟩
  · rw [h, perform]
    obtain hw | ⟨t, -, hw⟩ := busWrite_snd off width v { s with host := rest }
    · rw [hw]
      exact ⟨_, _, _, _, _, _, rfl⟩
    · obtain ⟨irqEn, done, ovr, hframe⟩ := writeTarget_busy (s := { s with host := rest }) hs off width v t
      rw [hw, hframe]
      exact ⟨_, _, _, _, _, _, rfl⟩

/-! ### The statements -/

/-- Settles O30: FOUT holds F of FIN, RK and K2, which never reads k2[0]. -/
theorem roundfReadsOnlyFinRkAndK2AboveZero : Obligations.RoundfReadsOnlyFinRkAndK2AboveZero := by
  intro s s' hm hm' hfin hrk hk2
  refine ⟨_, _, exec_roundf s, exec_roundf s', ?_⟩
  rw [buffer_complete, buffer_complete, State.buffer_store_same hm (length_roundFunction _ _ _),
    State.buffer_store_same hm' (length_roundFunction _ _ _), hfin, hrk, roundFunction_congr_tail hk2]

/-- Settles O34: KSOUT, K1 and K2 hold the three results of KS, which `keySchedule_congr_tail` compares. -/
theorem keyschedReadsOnlyK1AndK2BelowThirtyTwo : Obligations.KeyschedReadsOnlyK1AndK2BelowThirtyTwo := by
  intro s s' hm hm' hk1 hk2
  have windows {s : State} (hm : Memory.wf s.mem = true) :=
    State.buffer_storeKeyed hm (w := .ksout) (by decide) (by decide)
      (length_keySchedule_out (s.buffer .k1) (s.buffer .k2)) (length_keySchedule_next (s.buffer .k1) (s.buffer .k2))
      (length_keySchedule_k2 (s.buffer .k1) (s.buffer .k2))
  obtain ⟨hout, hnext, hlow⟩ := windows hm
  obtain ⟨hout', hnext', hlow'⟩ := windows hm'
  rw [← State.take_buffer _ _ (by decide), ← State.take_buffer _ _ (by decide)] at hk2
  obtain ⟨eout, enext, elow⟩ := keySchedule_congr_tail hk2 (s.buffer .k1)
  refine ⟨_, _, exec_keysched s, exec_keysched s', ?_, ?_, ?_⟩
  · rw [buffer_complete, buffer_complete, hout, hout', eout, hk1]
  · rw [buffer_complete, buffer_complete, hnext, hnext', enext, hk1]
  · rw [← State.take_buffer _ _ (by decide), ← State.take_buffer _ _ (by decide), buffer_complete, buffer_complete, hlow,
      hlow', elow, hk1]

/-- Settles O41: an error stores nothing, and the effects store n bytes to COEF and to SEQ. -/
theorem frameOfInterpAndShuffle : Obligations.FrameOfInterpAndShuffle := by
  refine fun n s => ⟨fun t h => ?interp, fun t h => ?shuffle⟩
  case interp =>
    obtain ⟨bs, draws, hlen, heff, hdraws⟩ := interpEffect_cases n s
    cases h
    obtain hc | hc := checked_cases (countCheck n) (interpEffect n) s
    · rw [hc, heff]
      exact ⟨rfl, fun a ha => Memory.read_writeBytes_outside _ _ _ (by omega), hdraws⟩
    · rw [hc]
      exact ⟨rfl, fun a _ => rfl, fun _ => rfl⟩
  case shuffle =>
    cases h
    obtain hc | hc := checked_cases (countCheck n) (fun s => s.store .seq (shuffle (s.bytes .seed n) (s.bytes .seq n) n)) s
    · rw [hc]
      exact ⟨rfl, fun a ha => Memory.read_writeBytes_outside _ _ _ (by simpa using ha)⟩
    · rw [hc]
      exact ⟨rfl, fun a _ => rfl⟩

/-- Settles O42: each command's stores, by the lengths of what its engine returns. -/
theorem frameOfCipherCommands : Obligations.FrameOfCipherCommands := by
  refine fun s hm => ⟨fun t h => ?roundf, fun t h => ?keysched, fun inc t h => ?blocks⟩
  case roundf =>
    rw [exec_roundf, Host.Outcome.next.injEq] at h
    refine ⟨complete_frame_of_mem h.symm (State.store_frame _ _ _), fun a ha => ?_⟩
    rw [← h, complete_mem, State.store_mem]
    exact Memory.read_writeBytes_outside _ _ _ (by simpa using ha)
  case keysched =>
    rw [exec_keysched, Host.Outcome.next.injEq] at h
    refine ⟨complete_frame_of_mem h.symm (State.storeKeyed_frame _ _ _ _ _), fun a hout ha1 ha2 => ?_⟩
    rw [← h, complete_mem]
    exact State.read_storeKeyed_outside hm (by decide) (length_keySchedule_out _ _) (length_keySchedule_next _ _)
      (length_keySchedule_k2 _ _) (drop_keySchedule_k2 _ _) hout ha1 ha2
  case blocks =>
    obtain ⟨hk1, hk2, hkeep⟩ := s.blockKeys_sizes
    have hblock : (s.buffer .block).length = 64 := length_buffer s .block
    obtain h | h := h
    · rw [exec_encblk, Host.Outcome.next.injEq] at h
      exact complete_blockEffect_frame hm hk1 hk2 hkeep (length_encryptBlock _ _ hblock) h.symm
    · rw [exec_decblk, Host.Outcome.next.injEq] at h
      exact complete_blockEffect_frame hm hk1 hk2 hkeep (length_decryptBlock _ _ hblock) h.symm

/-- Settles O40: the frame is `exec_storesNothing_frame`, which leaves memory as it is. -/
theorem frameOfCommandsThatStoreNothing : Obligations.FrameOfCommandsThatStoreNothing := by
  intro i s t hi h
  have hframe := exec_storesNothing_frame hi h
  refine ⟨hframe, fun a => by rw [hframe], ?_⟩
  rintro rfl
  cases h
  rfl

/-- Settles O43: the checks refuse exactly these accesses, and every other reaches a target. -/
theorem refusedAccessesAreAnsweredWithAnErrorAndChangeNothing :
    Obligations.RefusedAccessesAreAnsweredWithAnErrorAndChangeNothing := by
  refine fun off width v s => ⟨fun h => ⟨busRead_refused h s, busWrite_refused h v s⟩, fun h => ?_⟩
  obtain ⟨t, ht⟩ := checkAccess_ok_of_not_refused h
  refine ⟨?_, by rw [busWrite_ok ht]⟩
  cases hs : s.busy && t.isData with
  | false => exact ⟨_, by rw [busRead_value ht hs]⟩
  | true => exact ⟨_, by rw [busRead_free ht hs]⟩

/-- Settles O44: a write stores the bytes of the word at the offset, a read is the little-endian word of the bytes there. -/
theorem windowAccessesAreLittleEndian : Obligations.WindowAccessesAreLittleEndian := by
  intro off width v s hm hbusy hoff halign
  obtain ⟨w, hw⟩ := checkAccess_window hoff halign
  refine ⟨⟨{ s with mem := Memory.writeBytes s.mem off (wordBytes v width.bytes) }, ?_, rfl, fun k hk => ?_, fun a ha => ?_⟩,
    ⟨_, busRead_value hw (by simp [hbusy]), fun k hk => ?_, ?_⟩⟩
  · rw [busWrite_ok hw, writeTarget, if_neg (by simp [hbusy])]
  · rw [Memory.read_writeBytes_inside hm _ _ (by simpa using hk), getElem_wordBytes]
  · exact Memory.read_writeBytes_outside _ _ _ (by simpa using ha)
  · have hlen : width.bytes ≤ 4 := by cases width <;> decide
    rw [State.targetValue, extractLsb'_littleEndian (by simpa using hlen) (by simpa using hk), Memory.getElem_readBytes]
  · simpa [State.targetValue] using toNat_littleEndian_lt (Memory.readBytes s.mem off width.bytes)

/-- Settles O49: only a draw moves the count, and nothing is drawn while BUSY = 0. -/
theorem readsHaveNoSideEffect : Obligations.ReadsHaveNoSideEffect := by
  intro off width s
  by_cases hr : refusedAccess off width
  · exact ⟨0, by rw [busRead_refused hr]; rfl, fun _ => rfl⟩
  · obtain ⟨t, ht⟩ := checkAccess_ok_of_not_refused hr
    cases hs : s.busy && t.isData with
    | false => exact ⟨0, by rw [busRead_value ht hs]; rfl, fun _ => rfl⟩
    | true => exact ⟨width.bytes, by rw [busRead_free ht hs]; rfl, fun hbusy => by simp [hbusy] at hs⟩

/-- Settles O52: none of these is among what the host's turn can change while BUSY = 1. -/
theorem hostCannotChangeARunningCommand : Obligations.HostCannotChangeARunningCommand := by
  intro s hs
  obtain ⟨irqEn, done, ovr, host, responses, draws, h⟩ := hostTurn_busy hs
  rw [h]
  exact ⟨rfl, rfl, rfl, rfl, rfl, hs, rfl, rfl⟩

/-- Settles O45: CMD, IV and a window discard the write, CTRL and STATUS do not ask for BUSY. -/
theorem writesWhileBusyAreDiscardedExceptCtrlAndStatus : Obligations.WritesWhileBusyAreDiscardedExceptCtrlAndStatus := by
  refine fun off width v s hs => ⟨fun h => ?_, busWrite_scalar .ctrl v s, busWrite_scalar .status v s⟩
  obtain ⟨rfl | rfl, rfl⟩ | ⟨hoff, halign⟩ := h
  · exact (busWrite_scalar .cmd v s).trans (congrArg (Prod.mk _) (if_pos hs))
  · exact (busWrite_scalar .iv v s).trans (congrArg (Prod.mk _) (if_pos hs))
  · obtain ⟨w, hw⟩ := checkAccess_window hoff halign
    exact (busWrite_ok hw v s).trans (congrArg (Prod.mk _) (if_pos hs))

/-- Settles O46: three targets ignore the write, and STATUS and CTRL are compared bit by bit. -/
theorem writesToReadOnlyStateAreIgnored : Obligations.WritesToReadOnlyStateAreIgnored := by
  refine fun v s => ⟨?readOnly, ⟨_, busWrite_scalar .status v s, rfl, ?ovr, ?status⟩, ⟨_, busWrite_scalar .ctrl v s, rfl, ?ctrl⟩⟩
  case readOnly =>
    rintro off (rfl | rfl | rfl)
    · exact busWrite_scalar .id v s
    · exact busWrite_scalar .errcode v s
    · exact busWrite_scalar .result v s
  case ovr =>
    intro h
    exact Bool.and_elim_left h
  case status =>
    intro k h2 h4
    rw [State.getLsbD_statusWord, State.getLsbD_statusWord]
    simp [writeTarget, h2, h4]
  case ctrl =>
    intro k hk
    rw [State.getLsbD_ctrlWord]
    simp [hk]

/-- Settles O47: five registers are no data, and the other targets are, so that their read is a draw. -/
theorem readsWhileBusyAreTrueOrFree : Obligations.ReadsWhileBusyAreTrueOrFree := by
  intro off width s hs
  have hfixed (r : ScalarReg) (hr : (Target.scalar r).isData = false) := busRead_scalar r (s := s) (by simp [hr])
  refine ⟨hfixed .id rfl, hfixed .ctrl rfl, hfixed .status rfl, hfixed .errcode rfl, hfixed .cmd rfl, fun h => ?_⟩
  obtain ⟨t, ht, hdata⟩ := checkAccess_data h
  exact busRead_free ht (by simp [hs, hdata])

/-- Settles O53: a read and a write are the access on the state but for the host's list, which no access looks at. -/
theorem hostTurnMakesTheNextAccess : Obligations.HostTurnMakesTheNextAccess := by
  refine ⟨fun s turns h => ?turn, fun s off width rest h => ?read, fun s off width v rest h => ?write, fun s rest h => ?wait,
    fun s h => ?done⟩
  case turn => simp only [step, h]
  case read =>
    refine ⟨(busRead off width s).1, (busRead off width s).2, rfl, ?_⟩
    simp only [hostTurn, h, perform_busRead]
  case write =>
    refine ⟨(busWrite off width v s).1, (busWrite off width v s).2, rfl, ?_⟩
    simp only [hostTurn, h, perform_busWrite]
  case wait =>
    have hstatus := busRead_scalar .status (s := s) (by simp [Target.isData])
    simp only [hostTurn, h, perform_busRead, hstatus, State.scalarValue]
  case done => simp only [hostTurn, h]

end Sys2Proof.Machine
end

section
/-! SUPPORT. Decoding by the row of the opcode table, the fields of a command word placed and read back, the assembler's
operand checks, and the statements of 30_encoding.md. -/

namespace Sys2Proof.Machine

open Sys2Proof.Laws.EncodesToItsRow

/-! ### Decoding by rows -/

/-- The table has one row for each assigned opcode, in the same order. -/
theorem assignedOps_eq_map : assignedOps = opcodeTable.map (fun row => fieldOp row.1) := rfl

/-- A row matches OP and the format's reserved bits and nothing else (R92, R94). -/
theorem opcodeTable_row : ∀ row ∈ opcodeTable,
    row.1 = (fieldOp row.1).setWidth 32 ∧ row.2.1 = reservedMask (fieldOp row.1) ||| 0xFF#32 := by decide

theorem exists_row {op : Byte} (h : op ∈ assignedOps) : ∃ row ∈ opcodeTable, fieldOp row.1 = op := by
  rwa [assignedOps_eq_map, List.mem_map] at h

/-- No two rows share an opcode. -/
theorem row_unique {row row' : Word × Word × (Word → Instr)} (h : row ∈ opcodeTable) (h' : row' ∈ opcodeTable)
    (hop : fieldOp row.1 = fieldOp row'.1) : row = row' :=
  List.inj_on_of_nodup_map (f := fun row : Word × Word × (Word → Instr) => fieldOp row.1) (by decide) h h' hop

/-- OP's bits are reserved in no format (R92). -/
theorem reservedMask_and_op (op : Byte) : reservedMask op &&& 0xFF#32 = 0#32 := by
  unfold reservedMask
  split_ifs <;> rfl

theorem and_op_eq (w : Word) : w &&& 0xFF#32 = (fieldOp w).setWidth 32 := by
  refine BitVec.eq_of_toNat_eq ?_
  have hmod : w.toNat &&& 255 = w.toNat % 256 := Nat.and_two_pow_sub_one_eq_mod w.toNat 8
  rw [BitVec.toNat_and, BitVec.toNat_setWidth, fieldOp, BitVec.extractLsb'_toNat]
  simpa using hmod.trans (by omega)

/-- A word whose OP is the row's meets the row's match exactly when its reserved bits are 0. -/
theorem and_mask_eq_op_iff {w mask : Word} (hmask : mask &&& 0xFF#32 = 0#32) :
    w &&& (mask ||| 0xFF#32) = (fieldOp w).setWidth 32 ↔ w &&& mask = 0#32 := by
  rw [← and_op_eq, BitVec.and_or_distrib_left]
  refine ⟨fun h => ?_, fun h => by rw [h, BitVec.zero_or]⟩
  calc w &&& mask = (w &&& mask ||| w &&& 0xFF#32) &&& mask := by
        ext i hi
        cases hm : mask[i] <;> simp +contextual [hm]
    _ = w &&& (mask &&& 0xFF#32) := by rw [h, BitVec.and_assoc, BitVec.and_comm 0xFF#32]
    _ = 0#32 := by rw [hmask, BitVec.and_zero]

/-- A word whose OP has no row (R96). -/
theorem decode_of_unassigned {w : Word} (h : fieldOp w ∉ assignedOps) : decode w = .error .illegalOp := by
  have hnone : opcodeTable.find? (fun row => fieldOp row.1 == fieldOp w) = none := by
    rw [List.find?_eq_none]
    intro row hrow heq
    exact h (beq_iff_eq.1 heq ▸ assignedOps_eq_map ▸ List.mem_map_of_mem hrow)
  rw [decode, hnone]

/-- R95, R97: the row of OP gives the command, unless a reserved bit is 1. -/
theorem decode_of_row {w : Word} {row : Word × Word × (Word → Instr)} (hrow : row ∈ opcodeTable)
    (hop : fieldOp row.1 = fieldOp w) :
    decode w = if w &&& reservedMask (fieldOp w) = 0#32 then .ok (row.2.2 w) else .error .reservedBits := by
  have hfind : opcodeTable.find? (fun row => fieldOp row.1 == fieldOp w) = some row := by
    cases hf : opcodeTable.find? (fun row => fieldOp row.1 == fieldOp w) with
    | none => exact absurd (beq_iff_eq.2 hop) (List.find?_eq_none.1 hf row hrow)
    | some row' =>
      have hop' : fieldOp row'.1 = fieldOp w := by simpa using List.find?_some hf
      rw [row_unique (List.mem_of_find?_eq_some hf) hrow (hop'.trans hop.symm)]
  obtain ⟨hmatch, hmask⟩ := opcodeTable_row row hrow
  simp only [decode, hfind]
  rw [hmatch, hmask, hop]
  simp only [and_mask_eq_op_iff (reservedMask_and_op (fieldOp w))]

/-- A reserved bit under an assigned OP (R97). -/
theorem decode_of_reserved {w : Word} (h : fieldOp w ∈ assignedOps) (hres : w &&& reservedMask (fieldOp w) ≠ 0#32) :
    decode w = .error .reservedBits := by
  obtain ⟨row, hrow, hop⟩ := exists_row h
  rw [decode_of_row hrow hop, if_neg hres]

/-! ### Fields placed and read back -/

@[simp] theorem extractLsb'_place_same {n : Nat} (field : BitVec n) {lo : Nat} (h : lo + n ≤ 32) :
    (place field lo).extractLsb' lo n = field := by
  ext i hi
  simp [place, show lo + i < 32 by omega, BitVec.getLsbD_eq_getElem hi]

@[simp] theorem extractLsb'_place_apart {n : Nat} (field : BitVec n) {lo start len : Nat}
    (h : start + len ≤ lo ∨ lo + n ≤ start) : (place field lo).extractLsb' start len = 0#len := by
  ext i hi
  obtain h | h := h
  · simp [place, show start + i < lo by omega]
  · simp [place, BitVec.getLsbD_of_ge field _ (show n ≤ start + i - lo by omega)]

/-- A word with no bit above a field at bit 8 is that field beside its OP. -/
theorem word_of_one_field {w op : Word} (n : Nat) (hop : op = (fieldOp w).setWidth 32)
    (hhigh : w &&& BitVec.allOnes 32 <<< (8 + n) = 0#32) : place (w.extractLsb' 8 n) 8 ||| op = w := by
  subst hop
  ext i hi
  by_cases h8 : i < 8
  · simp [place, fieldOp, h8, BitVec.getLsbD_eq_getElem hi]
  · by_cases hn : i < 8 + n
    · simp [place, fieldOp, h8, show i - 8 < n by omega, show 8 + (i - 8) = i by omega, BitVec.getLsbD_eq_getElem hi]
    · have hbit : w[i] = false := by
        simpa [hi, hn, -BitVec.reduceAllOnes] using congrArg (fun v => v.getLsbD i) hhigh
      simp [place, fieldOp, h8, show ¬ i - 8 < n by omega, hbit]

/-- Format Z: a word with no bit above OP. -/
theorem word_of_no_field {w op : Word} (hop : op = (fieldOp w).setWidth 32) (hhigh : w &&& 0xFFFFFF00#32 = 0#32) :
    op = w := by
  have hplace : place (w.extractLsb' 8 0) 8 = 0#32 := by rw [BitVec.of_length_zero (x := w.extractLsb' 8 0)]; rfl
  simpa only [hplace, BitVec.zero_or] using word_of_one_field 0 hop hhigh

/-- Formats AB and NX: two bytes at bits 8 and 16 are one field of 16 bits. -/
theorem word_of_two_bytes {w op : Word} (hop : op = (fieldOp w).setWidth 32) (hhigh : w &&& 0xFF000000#32 = 0#32) :
    place (w.extractLsb' 16 8) 16 ||| place (w.extractLsb' 8 8) 8 ||| op = w := by
  have hjoin : place (w.extractLsb' 16 8) 16 ||| place (w.extractLsb' 8 8) 8 = place (w.extractLsb' 8 16) 8 := by
    ext i hi
    by_cases h8 : i < 8
    · simp [place, h8, show i < 16 by omega]
    · by_cases h16 : i < 16
      · simp [place, h8, h16, show i - 8 < 8 by omega, show i - 8 < 16 by omega]
      · simp [place, h8, h16, show ¬ i - 8 < 8 by omega, show i - 8 < 16 ↔ i - 16 < 8 by omega,
          show 8 + (i - 8) = 16 + (i - 16) by omega]
  rw [hjoin]
  exact word_of_one_field 16 hop hhigh

/-- A field beside an opcode is read back from bit 8. -/
theorem extractLsb'_one_field {n : Nat} (field : BitVec n) {op : Word} (hn : 8 + n ≤ 32) (hop : op.extractLsb' 8 n = 0#n) :
    (place field 8 ||| op).extractLsb' 8 n = field := by
  rw [BitVec.extractLsb'_or, hop, extractLsb'_place_same _ hn, BitVec.or_zero]

/-- Two bytes beside an opcode are read back from bits 8 and 16. -/
theorem extractLsb'_two_bytes (b a : Byte) {op : Word} (hop : op.extractLsb' 8 8 = 0#8 ∧ op.extractLsb' 16 8 = 0#8) :
    (place b 16 ||| place a 8 ||| op).extractLsb' 8 8 = a ∧ (place b 16 ||| place a 8 ||| op).extractLsb' 16 8 = b := by
  simp [BitVec.extractLsb'_or, hop]

theorem fieldN_le (w : Word) : fieldN w ≤ 255 := Nat.le_of_lt_succ (w.extractLsb' 8 8).isLt

theorem fieldIdx_le (w : Word) : fieldIdx w ≤ 511 := Nat.le_of_lt_succ (w.extractLsb' 8 9).isLt

theorem ofNat_fieldN (w : Word) : BitVec.ofNat 8 (fieldN w) = w.extractLsb' 8 8 := by
  rw [fieldN, BitVec.ofNat_toNat, BitVec.setWidth_eq]

theorem ofNat_fieldIdx (w : Word) : BitVec.ofNat 9 (fieldIdx w) = w.extractLsb' 8 9 := by
  rw [fieldIdx, BitVec.ofNat_toNat, BitVec.setWidth_eq]

theorem ofBool_fieldInc (w : Word) : BitVec.ofBool (fieldInc w) = w.extractLsb' 8 1 := by
  ext i hi
  obtain rfl : i = 0 := by omega
  simp [fieldInc]

/-! ### Rows and commands -/

/-- Every command's word has its opcode and no reserved bit (R92). -/
theorem encodesToItsRow (i : Instr) : Statement i := by
  cases i with
  | nop => exact nop
  | gfadd a b => exact gfadd a b
  | gfmul a b => exact gfmul a b
  | gfdiv a b => exact gfdiv a b
  | gflog a => exact gflog a
  | gfexp idx => exact gfexp idx
  | interp n => exact interp n
  | eval n x => exact eval n x
  | shuffle n => exact Laws.EncodesToItsRow.shuffle n
  | roundf => exact roundf
  | keysched => exact keysched
  | encblk inc => exact encblk inc
  | decblk inc => exact decblk inc

/-- Each command has a row whose fields read the operands back from its word. -/
theorem exists_row_of_encode {i : Instr} (hi : i.wellFormed = true) :
    ∃ row ∈ opcodeTable, fieldOp row.1 = opcode i ∧ row.2.2 (encode i) = i := by
  have hcount {n : Nat} {w : Word} (hn : n ≤ 255) (hw : w.extractLsb' 8 8 = BitVec.ofNat 8 n) : fieldN w = n := by
    rw [fieldN, hw, BitVec.toNat_ofNat, Nat.mod_eq_of_lt (by omega)]
  cases i with
  | nop => exact ⟨opcodeTable[0], List.getElem_mem _, rfl, rfl⟩
  | gfadd a b =>
    obtain ⟨ha, hb⟩ := extractLsb'_two_bytes b a (op := 0x01#32) (by decide)
    exact ⟨opcodeTable[1], List.getElem_mem _, rfl, congrArg₂ Instr.gfadd ha hb⟩
  | gfmul a b =>
    obtain ⟨ha, hb⟩ := extractLsb'_two_bytes b a (op := 0x02#32) (by decide)
    exact ⟨opcodeTable[2], List.getElem_mem _, rfl, congrArg₂ Instr.gfmul ha hb⟩
  | gfdiv a b =>
    obtain ⟨ha, hb⟩ := extractLsb'_two_bytes b a (op := 0x03#32) (by decide)
    exact ⟨opcodeTable[3], List.getElem_mem _, rfl, congrArg₂ Instr.gfdiv ha hb⟩
  | gflog a =>
    have hread := extractLsb'_one_field a (op := 0x04#32) (by decide) (by decide)
    exact ⟨opcodeTable[4], List.getElem_mem _, rfl, congrArg Instr.gflog hread⟩
  | gfexp idx =>
    have hidx : idx ≤ 511 := by simpa [Instr.wellFormed] using hi
    have hread : fieldIdx (encode (.gfexp idx)) = idx := by
      rw [fieldIdx, encode, extractLsb'_one_field _ (by decide) (by decide), BitVec.toNat_ofNat, Nat.mod_eq_of_lt (by omega)]
    exact ⟨opcodeTable[5], List.getElem_mem _, rfl, congrArg Instr.gfexp hread⟩
  | interp n =>
    have hread := extractLsb'_one_field (BitVec.ofNat 8 n) (op := 0x10#32) (by decide) (by decide)
    exact ⟨opcodeTable[6], List.getElem_mem _, rfl, congrArg Instr.interp (hcount (of_decide_eq_true hi) hread)⟩
  | eval n x =>
    obtain ⟨hn, hx⟩ := extractLsb'_two_bytes x (BitVec.ofNat 8 n) (op := 0x11#32) (by decide)
    exact ⟨opcodeTable[7], List.getElem_mem _, rfl, congrArg₂ Instr.eval (hcount (of_decide_eq_true hi) hn) hx⟩
  | shuffle n =>
    have hread := extractLsb'_one_field (BitVec.ofNat 8 n) (op := 0x18#32) (by decide) (by decide)
    exact ⟨opcodeTable[8], List.getElem_mem _, rfl, congrArg Instr.shuffle (hcount (of_decide_eq_true hi) hread)⟩
  | roundf => exact ⟨opcodeTable[9], List.getElem_mem _, rfl, rfl⟩
  | keysched => exact ⟨opcodeTable[10], List.getElem_mem _, rfl, rfl⟩
  | encblk inc => exact ⟨opcodeTable[11], List.getElem_mem _, rfl, by cases inc <;> rfl⟩
  | decblk inc => exact ⟨opcodeTable[12], List.getElem_mem _, rfl, by cases inc <;> rfl⟩

/-- The command a row gives a word without reserved bits is well-formed and has that word (R92, R95). -/
theorem encode_of_row {w : Word} {row : Word × Word × (Word → Instr)} (hrow : row ∈ opcodeTable)
    (hop : fieldOp row.1 = fieldOp w) (hres : w &&& reservedMask (fieldOp w) = 0#32) :
    encode (row.2.2 w) = w ∧ (row.2.2 w).wellFormed = true := by
  have hword : row.1 = (fieldOp w).setWidth 32 := hop ▸ (opcodeTable_row row hrow).1
  rw [← hop] at hres
  have hn : decide (fieldN w ≤ 255) = true := decide_eq_true (fieldN_le w)
  simp only [opcodeTable, List.mem_cons, List.not_mem_nil, or_false] at hrow
  rcases hrow with rfl | rfl | rfl | rfl | rfl | rfl | rfl | rfl | rfl | rfl | rfl | rfl | rfl
  · exact ⟨word_of_no_field hword hres, rfl⟩
  · exact ⟨word_of_two_bytes hword hres, rfl⟩
  · exact ⟨word_of_two_bytes hword hres, rfl⟩
  · exact ⟨word_of_two_bytes hword hres, rfl⟩
  · exact ⟨word_of_one_field 8 hword hres, rfl⟩
  · exact ⟨by simpa only [encode, ofNat_fieldIdx] using word_of_one_field 9 hword hres, decide_eq_true (fieldIdx_le w)⟩
  · exact ⟨by simpa only [encode, ofNat_fieldN] using word_of_one_field 8 hword hres, hn⟩
  · exact ⟨by simpa only [encode, ofNat_fieldN, fieldX] using word_of_two_bytes hword hres, hn⟩
  · exact ⟨by simpa only [encode, ofNat_fieldN] using word_of_one_field 8 hword hres, hn⟩
  · exact ⟨word_of_no_field hword hres, rfl⟩
  · exact ⟨word_of_no_field hword hres, rfl⟩
  · exact ⟨by simpa only [encode, ofBool_fieldInc] using word_of_one_field 1 hword hres, rfl⟩
  · exact ⟨by simpa only [encode, ofBool_fieldInc] using word_of_one_field 1 hword hres, rfl⟩

/-! ### The assembler's operand checks -/

/-- Two byte operands fit exactly when each is at most 255 (R99). -/
theorem bind_byteOperand (f : Byte → Byte → Instr) (a b : Nat) :
    ((byteOperand a).bind fun x => (byteOperand b).map fun y => f x y) =
      if a ≤ 255 ∧ b ≤ 255 then some (f (BitVec.ofNat 8 a) (BitVec.ofNat 8 b)) else none := by
  by_cases ha : a ≤ 255 <;> by_cases hb : b ≤ 255 <;> simp [byteOperand, ha, hb]

theorem map_byteOperand (f : Byte → Instr) (a : Nat) :
    (byteOperand a).map f = if a ≤ 255 then some (f (BitVec.ofNat 8 a)) else none := by
  by_cases ha : a ≤ 255 <;> simp [byteOperand, ha]

theorem fitting_wellFormed {i j : Instr} (h : fitting i = some j) : j.wellFormed = true := by
  unfold fitting at h
  split at h
  case isTrue hi => exact Option.some.inj h ▸ hi
  case isFalse => cases h

theorem bind_byteOperand_wellFormed {f : Byte → Byte → Instr} (hf : ∀ x y, (f x y).wellFormed = true) {a b : Nat}
    {i : Instr} (h : ((byteOperand a).bind fun x => (byteOperand b).map fun y => f x y) = some i) : i.wellFormed = true := by
  rw [bind_byteOperand, Option.ite_none_right_eq_some] at h
  exact Option.some.inj h.2 ▸ hf _ _

theorem map_byteOperand_wellFormed {f : Byte → Instr} (hf : ∀ x, (f x).wellFormed = true) {a : Nat} {i : Instr}
    (h : (byteOperand a).map f = some i) : i.wellFormed = true := by
  rw [map_byteOperand, Option.ite_none_right_eq_some] at h
  exact Option.some.inj h.2 ▸ hf _

/-- R99, R100: what the assembler gives fits its fields, line by line of the mnemonics. -/
theorem assemble_wellFormed {mnemonic : List Char} {operands : List Nat} {i : Instr}
    (h : assemble mnemonic operands = some i) : i.wellFormed = true := by
  unfold assemble at h
  split at h
  -- no operand
  case h_1 | h_10 | h_11 | h_12 | h_13 | h_14 | h_15 => exact Option.some.inj h ▸ rfl
  -- two bytes
  case h_2 | h_3 | h_4 | h_16 => exact bind_byteOperand_wellFormed (fun _ _ => rfl) h
  -- one byte
  case h_5 | h_17 | h_18 => exact map_byteOperand_wellFormed (fun _ => rfl) h
  -- a count or an index
  case h_6 | h_7 | h_9 => exact fitting_wellFormed h
  -- eval
  case h_8 =>
    obtain ⟨x, -, hx⟩ := Option.bind_eq_some_iff.1 h
    exact fitting_wellFormed hx
  -- gfpow2
  case h_19 =>
    obtain ⟨hk, hi⟩ := Option.ite_none_right_eq_some.1 h
    exact Option.some.inj hi ▸ decide_eq_true (hk.trans (by decide))
  -- no such line
  case h_20 => cases h

/-! ### The statements -/

/-- Settles O1: the row of the command's opcode decodes its word, and reads each operand back from its field. -/
theorem decodeOfEncodeIsTheCommand : Obligations.DecodeOfEncodeIsTheCommand := by
  intro i hi
  obtain ⟨row, hrow, hop, hbuild⟩ := exists_row_of_encode hi
  obtain ⟨henc, hres⟩ := encodesToItsRow i
  rw [decode_of_row hrow (hop.trans henc.symm), henc, if_pos hres, hbuild]

/-- Settles O2, by the row of OP where there is one. -/
theorem decoderSelectsOrRefusesByName : Obligations.DecoderSelectsOrRefusesByName := by
  refine fun w => ⟨decode_of_unassigned, decode_of_reserved, fun hop hres => ?_⟩
  obtain ⟨row, hrow, hrowOp⟩ := exists_row hop
  exact ⟨row.2.2 w, by rw [decode_of_row hrow hrowOp]; exact if_pos hres, encode_of_row hrow hrowOp hres⟩

/-- Settles O4: the mnemonic selects the line of `assemble`, and its operand check is the range of the field. -/
theorem assembledCommandsFitTheirFields : Obligations.AssembledCommandsFitTheirFields := by
  refine ⟨fun _ _ _ => assemble_wellFormed, ⟨rfl, rfl, rfl, rfl, rfl, rfl, rfl⟩, fun a b => ?two, fun a => ?one,
    by decide +kernel⟩
  case two =>
    have heval : ((byteOperand b).bind fun x => fitting (.eval a x)) =
        if a ≤ 255 ∧ b ≤ 255 then some (.eval a (BitVec.ofNat 8 b)) else none := by
      by_cases ha : a ≤ 255 <;> by_cases hb : b ≤ 255 <;> simp [byteOperand, fitting, Instr.wellFormed, ha, hb]
    exact ⟨bind_byteOperand .gfadd a b, bind_byteOperand .gfmul a b, bind_byteOperand .gfdiv a b, heval,
      bind_byteOperand gfsub a b⟩
  case one =>
    have hfit (i : Instr) {n : Nat} (hi : i.wellFormed = decide (a ≤ n)) :
        fitting i = if a ≤ n then some i else none := by simp [fitting, hi]
    exact ⟨map_byteOperand .gflog a, hfit (.gfexp a) rfl, hfit (.interp a) rfl, hfit (.shuffle a) rfl,
      map_byteOperand gfinv a, map_byteOperand gfsq a, rfl⟩

/-- Settles O11: the word does not decode, so the completion raises its error. -/
theorem unassignedOpcodeCompletesWithIllegalOp : Obligations.UnassignedOpcodeCompletesWithIllegalOp := by
  intro s hs hop
  rw [engineTurn_running hs, completionStep, decode_of_unassigned hop]
  rfl

/-- Settles O12: the word does not decode, so the completion raises its error. -/
theorem reservedBitCompletesWithReservedBits : Obligations.ReservedBitCompletesWithReservedBits := by
  intro s hs hop hres
  rw [engineTurn_running hs, completionStep, decode_of_reserved hop hres]
  rfl

/-- Settles O3: ten words, each decoded. -/
theorem exampleWordsDecode : Obligations.ExampleWordsDecode := by
  unfold Obligations.ExampleWordsDecode
  decide

end Sys2Proof.Machine
end

section
/-! SUPPORT. That every agent's turn answers a next state, what the engine's and the host's turns do to the invariant, said
once, and the statements of 40_command_cycle.md (R120–R122, R125, R126). -/

namespace Sys2Proof.Machine

/-! ### Every step answers a next state -/

/-- No command's completion ends in a fault or a refusal (R122). -/
theorem exec_answers_next (i : Instr) (s : State) : ∃ t, exec i s = .next t := by
  cases i <;> exact ⟨_, rfl⟩

theorem completionStep_of_decode_ok {s : State} {i : Instr} (h : decode s.pending = .ok i) :
    completionStep s = exec i s := by
  rw [completionStep, h]

theorem completionStep_of_decode_error {s : State} {e : DecodeError} (h : decode s.pending = .error e) :
    completionStep s = .next (raiseCmdError (.ofDecodeError e) s) := by
  rw [completionStep, h]

/-- A word that decodes is run, any other is a command error (R95). -/
theorem completionStep_answers_next (s : State) : ∃ t, completionStep s = .next t := by
  cases hdec : decode s.pending with
  | ok i => rw [completionStep_of_decode_ok hdec]; exact exec_answers_next i s
  | error e => exact ⟨_, completionStep_of_decode_error hdec⟩

theorem engineTurn_answers_next (s : State) : ∃ t, engineTurn s = .next t := by
  cases hready : s.ready with
  | false => exact ⟨_, engineTurn_initialising hready⟩
  | true =>
    cases hbusy : s.busy with
    | false => exact ⟨_, engineTurn_idle ⟨hbusy, hready⟩⟩
    | true => rw [engineTurn_running ⟨hbusy, hready⟩]; exact completionStep_answers_next s

/-! ### The memory part of the invariant -/

/-- Canonical, with window bytes only listed: the two memory clauses of `State.Inv` (R60–R62). -/
def Memory.InWindows (m : Memory) : Prop := Memory.wf m = true ∧ m.all (fun c => inWindow c.1) = true

theorem State.Inv.inWindows {s : State} (h : s.Inv) : s.mem.InWindows := ⟨h.mem_wf, h.mem_inWindows⟩

theorem Memory.InWindows.writeBytes {m : Memory} (hm : m.InWindows) (a : Nat) {bs : List Byte}
    (h : ∀ i < bs.length, inWindow (a + i) = true) : (Memory.writeBytes m a bs).InWindows :=
  ⟨Memory.writeBytes_wf hm.1 a bs, Memory.all_writeBytes hm.2 a bs h⟩

/-- A store no longer than its window stays in the windows (R62). -/
theorem Memory.InWindows.store {s : State} (hm : s.mem.InWindows) {w : Window} {bs : List Byte} (hlen : bs.length ≤ w.size) :
    (s.store w bs).mem.InWindows :=
  hm.writeBytes w.base fun _ hi => inWindow_window w (hi.trans_le hlen)

theorem Memory.InWindows.storeKeyed {s : State} (hm : s.mem.InWindows) {w : Window} {bs k1 k2 : List Byte}
    (hbs : bs.length = w.size) (hk1 : k1.length = 32) (hk2 : k2.length = 64) : (s.storeKeyed w bs k1 k2).mem.InWindows :=
  ((hm.store hbs.le).store hk1.le).store hk2.le

/-- What a checked command's effect does to memory matters only where the check passes (R123, R124). -/
theorem Memory.InWindows.checked {code : ErrCode} {effect : State → State} {s : State} (hm : s.mem.InWindows)
    (heff : code = .noError → (effect s).mem.InWindows) : (checked code effect s).mem.InWindows := by
  by_cases hc : code = .noError
  · subst hc
    exact heff rfl
  · rwa [checked_error hc]

theorem countCheck_eq_noError_iff (n : Nat) : countCheck n = .noError ↔ 1 ≤ n ∧ n ≤ 64 := by
  rw [countCheck, Config.maxN]
  split_ifs with h <;> simp [h]

/-- The effect of ENCBLK and DECBLK stores BLOCK, K1 and K2 whole (R212, R213). -/
theorem Memory.InWindows.blockEffect {s : State} (hm : s.mem.InWindows) {b : List Byte} (hb : b.length = 64) (inc : Bool) :
    (blockEffect s.blockKeys b inc s).mem.InWindows := by
  obtain ⟨hk1, hk2, -⟩ := s.blockKeys_sizes
  rw [blockEffect_eq, State.bumpIv_mem]
  exact hm.storeKeyed hb hk1 hk2

/-- Every command stores inside the windows: by its own lengths, and for INTERP and SHUFFLE by the count check (R124). -/
theorem Memory.InWindows.exec {i : Instr} {s t : State} (hm : s.mem.InWindows) (h : exec i s = .next t) :
    t.mem.InWindows := by
  have hblock : (s.buffer .block).length = 64 := length_buffer s .block
  cases i with
  | nop | gfadd a b | gfmul a b | gfdiv a b | gflog a | gfexp idx | eval n x =>
    rwa [exec_storesNothing_frame rfl h]
  | interp n =>
    cases h
    refine hm.checked fun hcount => ?_
    obtain ⟨-, hn⟩ := (countCheck_eq_noError_iff n).1 hcount
    obtain ⟨bs, draws, hlen, heff, -⟩ := interpEffect_cases n s
    rw [heff]
    exact hm.store (w := .coef) (hlen.trans_le hn)
  | shuffle n =>
    cases h
    refine hm.checked fun hcount => ?_
    obtain ⟨-, hn⟩ := (countCheck_eq_noError_iff n).1 hcount
    exact hm.store (w := .seq) (((length_shuffle _ _ n).trans (length_bytes s .seq n)).trans_le hn)
  | roundf =>
    rw [exec_roundf, Host.Outcome.next.injEq] at h
    rw [← h, complete_mem]
    exact hm.store (w := .fout) (length_roundFunction _ _ _).le
  | keysched =>
    rw [exec_keysched, Host.Outcome.next.injEq] at h
    rw [← h, complete_mem]
    exact hm.storeKeyed (w := .ksout) (length_keySchedule_out _ _) (length_keySchedule_next _ _) (length_keySchedule_k2 _ _)
  | encblk inc =>
    rw [exec_encblk, Host.Outcome.next.injEq] at h
    rw [← h, complete_mem]
    exact hm.blockEffect (length_encryptBlock _ _ hblock) inc
  | decblk inc =>
    rw [exec_decblk, Host.Outcome.next.injEq] at h
    rw [← h, complete_mem]
    exact hm.blockEffect (length_decryptBlock _ _ hblock) inc

/-! ### The invariant -/

/-- Of an idle core the invariant asks nothing but its memory clauses. -/
theorem State.Inv.of_idle {s : State} (hidle : s.idle) (hm : s.mem.InWindows) : s.Inv where
  mem_wf := hm.1
  mem_inWindows := hm.2
  condition := .inr (.inl hidle)
  busy_not_done hbusy := by simp [hidle.1] at hbusy
  busy_no_error hbusy := by simp [hidle.1] at hbusy
  running_pending := fun ⟨hbusy, _⟩ => by simp [hidle.1] at hbusy
  initialising_reset := fun ⟨hbusy, _⟩ => by simp [hidle.1] at hbusy

theorem State.Inv.idle_of_not_busy {s : State} (h : s.Inv) (hbusy : s.busy = false) : s.idle := by
  obtain ⟨hinit, -⟩ | hidle | ⟨hrun, -⟩ := h.condition
  · simp [hbusy] at hinit
  · exact hidle
  · simp [hbusy] at hrun

/-- The invariant does not speak of CTRL, OVR and the model's own fields. -/
theorem State.Inv.congr_agents {s : State} (h : s.Inv) (irqEn ovr : Bool) (host : List HostOp) (turns : List Turn)
    (responses : List BusResponse) (draws : Nat) :
    State.Inv { s with irqEn := irqEn, ovr := ovr, host := host, turns := turns, responses := responses, draws := draws } :=
  ⟨h.mem_wf, h.mem_inWindows, h.condition, h.busy_not_done, h.busy_no_error, h.running_pending, h.initialising_reset⟩

/-- The reset input establishes the invariant whatever the state was (R260). -/
theorem resetCore_inv (s : State) : (resetCore s).Inv where
  mem_wf := rfl
  mem_inWindows := rfl
  condition := .inl ⟨rfl, rfl⟩
  busy_not_done _ := rfl
  busy_no_error _ := rfl
  running_pending _ := rfl
  initialising_reset _ := ⟨rfl, rfl, rfl, rfl, rfl⟩

/-- Acceptance makes an idle core running, with PENDING = CMD (R40, R121). -/
theorem State.Inv.accept {s : State} (h : s.Inv) (hidle : s.idle) (w : Word) : (accept w s).Inv where
  mem_wf := h.mem_wf
  mem_inWindows := h.mem_inWindows
  condition := .inr (.inr ⟨rfl, hidle.2⟩)
  busy_not_done _ := rfl
  busy_no_error _ := rfl
  running_pending _ := rfl
  initialising_reset := fun ⟨_, hready⟩ => by simp [hidle.2] at hready

/-- STATUS takes writes that can only clear DONE and OVR, in any condition (R26). -/
theorem State.Inv.writeStatus {s : State} (h : s.Inv) (v : Word) : (writeStatus v s).Inv :=
  { h with busy_not_done := fun hbusy => by simp [h.busy_not_done hbusy] }

/-- After the engine's turn the core is idle: it ended its initialisation or its command, or had nothing to do (R120). -/
theorem engineTurn_ends_idle {s t : State} (h : engineTurn s = .next t) : t.idle := by
  obtain ⟨-, rfl⟩ | ⟨hrun, i, -, hexec⟩ | ⟨hrun, e, -, rfl⟩ | ⟨hidle, rfl⟩ := engineTurn_cases h
  · exact ⟨rfl, rfl⟩
  · obtain ⟨hbusy, -, -, hready, -⟩ := exec_agents hexec
    exact ⟨hbusy, hready.trans hrun.2⟩
  · exact ⟨rfl, hrun.2⟩
  · exact hidle

theorem Memory.InWindows.engineTurn {s t : State} (hm : s.mem.InWindows) (h : engineTurn s = .next t) :
    t.mem.InWindows := by
  obtain ⟨-, rfl⟩ | ⟨-, i, -, hexec⟩ | ⟨-, e, -, rfl⟩ | ⟨-, rfl⟩ := engineTurn_cases h
  · exact hm
  · exact hm.exec hexec
  · exact hm
  · exact hm

theorem State.Inv.engineTurn {s t : State} (h : s.Inv) (ht : engineTurn s = .next t) : t.Inv :=
  .of_idle (engineTurn_ends_idle ht) (h.inWindows.engineTurn ht)

/-- CMD, IV and the windows discard a write while BUSY = 1, so that only an idle core takes it (R72). -/
theorem State.Inv.discard_unless_idle {s t : State} (h : s.Inv) (ht : s.idle → t.Inv) :
    (if s.busy then discardWrite s else t).Inv := by
  cases hbusy : s.busy with
  | true => exact h.congr_agents _ _ _ _ _ _
  | false => exact ht (h.idle_of_not_busy hbusy)

/-- A write that passed the checks keeps the invariant, target by target (R65, R71, R72). -/
theorem State.Inv.writeTarget {off : Nat} {width : Width} {t : Target} {s : State} (h : s.Inv)
    (hok : checkAccess off width = .ok t) (v : Word) : (writeTarget off width v t s).Inv := by
  cases t with
  | window w =>
    obtain ⟨-, htarget, -⟩ := checkAccess_ok hok
    have hin : ∀ i < (wordBytes v width.bytes).length, inWindow (off + i) = true := fun i hi => by
      rw [inWindow, htarget i (by simpa using hi)]
    exact h.discard_unless_idle fun hidle => .of_idle hidle (h.inWindows.writeBytes off hin)
  | scalar r =>
    cases r with
    | id | errcode | result => exact h
    | ctrl => exact h.congr_agents _ _ _ _ _ _
    | status => exact h.writeStatus v
    | cmd => exact h.discard_unless_idle fun hidle => h.accept hidle v
    | iv => exact h.discard_unless_idle fun hidle => .of_idle hidle h.inWindows

theorem State.Inv.hostTurn {s : State} (h : s.Inv) : (hostTurn s).Inv := by
  have hrest (rest : List HostOp) : State.Inv { s with host := rest } := h.congr_agents _ _ _ _ _ _
  obtain ht | ⟨off, width, rest, ht⟩ | ⟨off, width, v, rest, -, ht⟩ := hostTurn_cases s
  · rwa [ht]
  · obtain ⟨n, hn⟩ := busRead_snd off width { s with host := rest }
    rw [ht, perform, hn]
    exact h.congr_agents _ _ _ _ _ _
  · rw [ht, perform]
    refine State.Inv.congr_agents ?_ _ _ _ _ _ _
    obtain hw | ⟨t, hok, hw⟩ := busWrite_snd off width v { s with host := rest }
    · rw [hw]
      exact hrest rest
    · rw [hw]
      exact (hrest rest).writeTarget hok v

/-! ### The statements -/

/-- Settles O57: the reset input establishes the invariant, the engine's turn ends idle, and the host's is one access. -/
theorem everyStepKeepsTheInvariant : Obligations.EveryStepKeepsTheInvariant := by
  intro s t h ht
  have hturns (turns : List Turn) : State.Inv { s with turns := turns } := h.congr_agents _ _ _ _ _ _
  obtain ⟨rest, -, hs⟩ | ⟨rest, -, hs⟩ | ⟨rest, -, hs⟩ | ⟨-, -, hs⟩ | ⟨-, -, hs⟩ := step_cases s <;> rw [hs] at ht
  · exact (hturns rest).engineTurn ht
  · cases ht
    exact (hturns rest).hostTurn
  · cases ht
    exact resetCore_inv _
  · exact h.engineTurn ht
  · cases ht
    exact h.hostTurn

/-- Settles O6: the host's turn and the reset input are next states, and the engine's turn is one in each condition. -/
theorem everyStepAnswersNext : Obligations.EveryStepAnswersNext := by
  intro s
  obtain ⟨rest, -, hs⟩ | ⟨rest, -, hs⟩ | ⟨rest, -, hs⟩ | ⟨-, -, hs⟩ | ⟨-, -, hs⟩ := step_cases s <;> rw [hs]
  · exact engineTurn_answers_next _
  · exact ⟨_, rfl⟩
  · exact ⟨_, rfl⟩
  · exact engineTurn_answers_next s
  · exact ⟨_, rfl⟩

/-- Settles O8: acceptance leaves the core running, and its completion is a command's or a decode error's. -/
theorem acceptedWordCompletesAtTheEngineStep : Obligations.AcceptedWordCompletesAtTheEngineStep := by
  intro s w hready
  obtain ⟨t, ht⟩ := engineTurn_answers_next (accept w s)
  refine ⟨t, ht, ?_⟩
  obtain ⟨hinit, -⟩ | ⟨-, i, -, hexec⟩ | ⟨-, e, -, rfl⟩ | ⟨⟨hidle, -⟩, -⟩ := engineTurn_cases ht
  · simp [hready] at hinit
  · obtain ⟨hbusy, hdone, hirq, hrdy, hovr, hcmd, -, hhost, hturns, hresponses⟩ := exec_agents hexec
    exact ⟨hbusy, hdone, hrdy.trans hready, hcmd, hirq, hovr, hhost, hturns, hresponses⟩
  · exact ⟨rfl, rfl, hready, rfl, rfl, rfl, rfl, rfl, rfl⟩
  · simp at hidle

/-- Settles O5: either way it is the engine's turn of a running core whose word decodes. -/
theorem stepRunsTheDecodedCommand : Obligations.StepRunsTheDecodedCommand := by
  intro s i hrun hdec
  have hturn {u : State} (hu : u.running) (hpending : u.pending = s.pending) : engineTurn u = exec i u := by
    rw [engineTurn_running hu, completionStep_of_decode_ok (hpending ▸ hdec)]
  refine ⟨fun rest hturns => ?listed, fun hturns => ?unlisted⟩
  case listed =>
    simp only [step, hturns]
    exact hturn hrun rfl
  case unlisted =>
    simp only [step, hturns, engineEnabled, hrun.1, Bool.or_true, if_true]
    exact hturn hrun rfl

/-- Settles O7: CMD is the target of the word write at its offset, which asks for BUSY alone. -/
theorem commandWriteIsAcceptedOrDiscarded : Obligations.CommandWriteIsAcceptedOrDiscarded := by
  refine fun s w => ⟨fun hbusy => ?accepted, fun hbusy => ?discarded⟩
  case accepted => exact (busWrite_scalar .cmd w s).trans (congrArg (Prod.mk _) (if_neg (by simp [hbusy])))
  case discarded => exact (busWrite_scalar .cmd w s).trans (congrArg (Prod.mk _) (if_pos hbusy))

/-- Settles O13: NOP's completion is `complete`, which writes these three fields. -/
theorem nopCompletes : Obligations.NopCompletes := by
  intro s
  rfl

end Sys2Proof.Machine
end

section
/-! SUPPORT. The field of 256 elements through its generator: the polynomial product and the tables as multiplication by
0x02 iterated, and the statements of 41_field.md. -/

namespace Sys2Proof.Machine

/-! ### The polynomial product -/

/-- Subtracting a fixed value where a bit is set is additive: it is what one step of a long division does. -/
theorem xor_sub_on_bit {n : Nat} (p q : Bool) (u v c : BitVec n) :
    (if (p ^^ q) = true then u ^^^ v ^^^ c else u ^^^ v) =
      (if p = true then u ^^^ c else u) ^^^ (if q = true then v ^^^ c else v) := by
  have cancel : u ^^^ c ^^^ (v ^^^ c) = u ^^^ v := by
    rw [show u ^^^ c ^^^ (v ^^^ c) = u ^^^ v ^^^ (c ^^^ c) by ac_rfl, BitVec.xor_self, BitVec.xor_zero]
  cases p <;> cases q
  · rfl
  · exact BitVec.xor_assoc u v c
  · exact (show u ^^^ v ^^^ c = u ^^^ c ^^^ v by ac_rfl)
  · exact cancel.symm

/-- One step of the long division by P: the multiple of P that clears the coefficient of x^d. -/
def divisionStep (v : BitVec 16) (d : Nat) : BitVec 16 := if v.getLsbD d then v ^^^ (0x11D#16 <<< (d - 8)) else v

theorem reduceModP_eq_foldl (v : BitVec 16) : reduceModP v = [14, 13, 12, 11, 10, 9, 8].foldl divisionStep v := rfl

theorem divisionStep_xor (u v : BitVec 16) (d : Nat) :
    divisionStep (u ^^^ v) d = divisionStep u d ^^^ divisionStep v d := by
  simp only [divisionStep, BitVec.getLsbD_xor, xor_sub_on_bit]

theorem divisionStep_of_clear {v : BitVec 16} {d : Nat} (h : v.getLsbD d = false) : divisionStep v d = v := by
  simp [divisionStep, h]

/-- Dividing v·x one degree higher is dividing v, times x. -/
theorem divisionStep_shiftLeft (v : BitVec 16) {d : Nat} (hd : 8 ≤ d ∧ d < 15) :
    divisionStep (v <<< 1) (d + 1) = divisionStep v d <<< 1 := by
  have hbit : (v <<< 1).getLsbD (d + 1) = v.getLsbD d := by
    rw [BitVec.getLsbD_shiftLeft, Nat.add_sub_cancel, decide_eq_true (by omega), decide_eq_false (by omega)]
    rfl
  have hp : 0x11D#16 <<< (d + 1 - 8) = 0x11D#16 <<< (d - 8) <<< 1 := by
    rw [← BitVec.shiftLeft_add, Nat.sub_add_comm hd.1]
  rw [divisionStep, divisionStep, hbit, hp, ← BitVec.shiftLeft_xor_distrib]
  split <;> rfl

theorem foldl_divisionStep_shiftLeft {ds : List Nat} (h : ∀ d ∈ ds, 8 ≤ d ∧ d < 15) (v : BitVec 16) :
    (ds.map (· + 1)).foldl divisionStep (v <<< 1) = ds.foldl divisionStep v <<< 1 := by
  rw [List.foldl_map]
  refine List.foldl_rel (r := fun u w : BitVec 16 => u = w <<< 1) rfl fun d hd u w hu => ?_
  rw [hu, divisionStep_shiftLeft w (h d hd)]

/-- The last step of the division of v·x is R141's conditional reduction. -/
theorem divisionStep_eight_shiftLeft (v : BitVec 16) :
    (divisionStep (v <<< 1) 8).setWidth 8 = xtime (v.setWidth 8) := by
  have hshift : (v <<< 1).setWidth 8 = v.setWidth 8 <<< 1 := by ext i; simp
  have hbit : (v <<< 1).getLsbD 8 = (v.setWidth 8).getLsbD 7 := by simp
  rw [divisionStep, xtime, xtimeOf, hbit, ← hshift]
  split
  · exact BitVec.setWidth_xor
  · exact BitVec.xor_zero.symm

/-- Reduction modulo P is additive (R140). -/
theorem reduceModP_xor (u v : BitVec 16) : reduceModP (u ^^^ v) = reduceModP u ^^^ reduceModP v := by
  simp only [reduceModP_eq_foldl, List.foldl_cons, List.foldl_nil, divisionStep_xor]

/-- Reduction modulo P takes a product with x to `xtime` (R140, R141). -/
theorem reduceModP_shiftLeft_one {v : BitVec 16} (h : v.getLsbD 14 = false) :
    (reduceModP (v <<< 1)).setWidth 8 = xtime ((reduceModP v).setWidth 8) := by
  have hupper := foldl_divisionStep_shiftLeft (ds := [13, 12, 11, 10, 9, 8]) (by decide) v
  have hdrop : reduceModP v = [13, 12, 11, 10, 9, 8].foldl divisionStep v := by
    rw [reduceModP_eq_foldl, List.foldl_cons, divisionStep_of_clear h]
  rw [hdrop, ← divisionStep_eight_shiftLeft, ← hupper]
  rfl

/-- A polynomial of degree below 8 is its own remainder. -/
theorem reduceModP_setWidth (a : Byte) : reduceModP (a.setWidth 16) = a.setWidth 16 := by
  simp [reduceModP_eq_foldl, divisionStep_of_clear]

/-- a·x^k reduced modulo P is a multiplied by x, k times (R140, R141). -/
theorem reduceModP_shiftLeft (a : Byte) {k : Nat} (h : k < 8) :
    (reduceModP (a.setWidth 16 <<< k)).setWidth 8 = xtime^[k] a := by
  induction k with
  | zero => simp [reduceModP_setWidth]
  | succ k ih =>
    have hclear : (a.setWidth 16 <<< k).getLsbD 14 = false := by
      simp [BitVec.getLsbD_of_ge a (14 - k) (by omega)]
    rw [BitVec.shiftLeft_add, reduceModP_shiftLeft_one hclear, ih (by omega), Function.iterate_succ_apply']

/-- The polynomial product collects a·x^k over the bits k of b. -/
theorem polyProduct_eq_foldl (a b : Byte) : polyProduct a b =
    (List.range 8).foldl (fun acc k => if b.getLsbD k then acc ^^^ xtime^[k] a else acc) 0x00#8 := by
  refine List.foldl_rel (r := fun v y => (reduceModP v).setWidth 8 = y) (by decide) fun k hk v y hv => ?_
  subst hv
  split
  · rw [reduceModP_xor, BitVec.setWidth_xor, reduceModP_shiftLeft a (List.mem_range.1 hk)]
  · rfl

theorem polyProduct_zero_right (a : Byte) : polyProduct a 0x00#8 = 0x00#8 := polyProduct_eq_foldl a 0x00#8

theorem polyProduct_zero_left : ∀ b : Byte, polyProduct 0x00#8 b = 0x00#8 := by decide +kernel

theorem polyProduct_one_left : ∀ b : Byte, polyProduct 0x01#8 b = b := by decide +kernel

theorem polyProduct_alpha_right (a : Byte) : polyProduct a 0x02#8 = xtime a :=
  (polyProduct_eq_foldl a 0x02#8).trans BitVec.zero_xor

/-- The product commutes with multiplication by x in its first factor. -/
theorem polyProduct_xtime_left (a b : Byte) : polyProduct (xtime a) b = xtime (polyProduct a b) := by
  rw [polyProduct_eq_foldl, polyProduct_eq_foldl]
  refine List.foldl_hom (init := 0x00#8) xtime fun acc k => ?_
  split
  · rw [xtime_xor, ← Function.iterate_succ_apply, Function.iterate_succ_apply']
  · rfl

/-! ### The powers of 0x02 -/

theorem alphaPower_eq_iterate (n : Nat) : alphaPower n = xtime^[n] 0x01#8 := by
  induction n with
  | zero => rfl
  | succ n ih => rw [alphaPower, polyProduct_alpha_right, ih, Function.iterate_succ_apply']

/-- Multiplying by the n-th power of 0x02 is multiplying by x, n times. -/
theorem polyProduct_alphaPower (n : Nat) (b : Byte) : polyProduct (alphaPower n) b = xtime^[n] b := by
  have hsemi : Function.Semiconj (polyProduct · b) xtime xtime := fun a => polyProduct_xtime_left a b
  rw [alphaPower_eq_iterate]
  exact ((hsemi.iterate_right n) 0x01#8).trans (congrArg _ (polyProduct_one_left b))

theorem iterate_xtime_alphaPower (m n : Nat) : xtime^[m] (alphaPower n) = alphaPower (m + n) := by
  rw [alphaPower_eq_iterate, alphaPower_eq_iterate, Function.iterate_add_apply]

theorem iterate_xtime_xor (n : Nat) (a b : Byte) : xtime^[n] (a ^^^ b) = xtime^[n] a ^^^ xtime^[n] b := by
  induction n generalizing a b with
  | zero => rfl
  | succ n ih => simp only [Function.iterate_succ_apply, xtime_xor, ih]

/-- 0x02 to the power 255 is 1 (R142). -/
theorem alphaPower_order : alphaPower 255 = 0x01#8 := by
  rw [alphaPower_eq_iterate]
  decide +kernel

theorem alphaPower_mod (n : Nat) : alphaPower (n % 255) = alphaPower n := by
  have hperiod : Function.IsPeriodicPt xtime 255 0x01#8 := (alphaPower_eq_iterate 255).symm.trans alphaPower_order
  rw [alphaPower_eq_iterate, alphaPower_eq_iterate, hperiod.iterate_mod_apply]

/-! ### The tables -/

theorem getD_powersOf (poly : Byte) {n i : Nat} (h : i < n) (v : Byte) :
    (powersOf poly n v).getD i 0x00#8 = (xtimeOf poly)^[i] v := by
  induction n generalizing i v with
  | zero => omega
  | succ n ih =>
    cases i with
    | zero => rfl
    | succ i => exact ih (by omega) (xtimeOf poly v)

/-- The loop of R142 lists the powers of 0x02. -/
theorem getD_powers {i : Nat} (h : i < 255) : powers.getD i 0x00#8 = alphaPower i := by
  rw [alphaPower_eq_iterate]
  exact getD_powersOf Config.gfPolyLow h 0x01#8

/-- EXP[i] is 0x02 to the power i (R142). -/
theorem expAt_eq_alphaPower {i : Nat} (h : i ≤ 509) : expAt i = alphaPower i := by
  by_cases hi : i < 255
  · rw [(expAt_powers hi).1, getD_powers hi]
  · obtain ⟨k, rfl⟩ := Nat.exists_eq_add_of_le' (Nat.le_of_not_lt hi)
    rw [(expAt_powers (by omega)).2, getD_powers (by omega), ← alphaPower_mod (k + 255), Nat.add_mod_right,
      alphaPower_mod]

/-- LOG inverts EXP[0..254] (R142). -/
theorem logAt_alphaPower {i : Nat} (h : i ≤ 254) : (logAt (alphaPower i)).toNat = i := by
  rw [← getD_powers (by omega), logAt_powers (by omega)]

theorem alphaPower_ne_zero (n : Nat) : alphaPower n ≠ 0x00#8 := by
  have hmod : n % 255 < powers.length := (Nat.mod_lt n (by decide)).trans_eq (length_powersOf _ _ _).symm
  have hadmitted := gfPolyLow_admitted
  simp only [polyAdmitted, Bool.and_eq_true, List.all_eq_true, decide_eq_true_eq] at hadmitted
  obtain ⟨-, hnonzero⟩ := hadmitted
  rw [← alphaPower_mod, ← getD_powers (Nat.mod_lt n (by decide)), List.getD_eq_getElem _ _ hmod]
  exact hnonzero _ (List.getElem_mem hmod)

/-- Every nonzero byte is the power of 0x02 that LOG names, an exponent of at most 254 (R142). -/
theorem logAt_spec {a : Byte} (h : a ≠ 0x00#8) : (logAt a).toNat ≤ 254 ∧ alphaPower (logAt a).toNat = a := by
  have table : ∀ a : Byte, a ≠ 0x00#8 → (logAt a).toNat ≤ 254 ∧ expAt (logAt a).toNat = a := by decide +kernel
  obtain ⟨hle, hexp⟩ := table a h
  exact ⟨hle, (expAt_eq_alphaPower (by omega)).symm.trans hexp⟩

/-! ### Product and quotient -/

theorem gmul_zero_left (b : Byte) : gmul 0x00#8 b = 0x00#8 := if_pos (.inl rfl)

theorem gmul_zero_right (a : Byte) : gmul a 0x00#8 = 0x00#8 := if_pos (.inr rfl)

/-- The product by tables is the polynomial product (R140, R143): exponents of 0x02 add. -/
theorem gmul_eq_polyProduct (a b : Byte) : gmul a b = polyProduct a b := by
  by_cases ha : a = 0x00#8
  · rw [ha, gmul_zero_left, polyProduct_zero_left]
  by_cases hb : b = 0x00#8
  · rw [hb, gmul_zero_right, polyProduct_zero_right]
  obtain ⟨hla, hpa⟩ := logAt_spec ha
  obtain ⟨hlb, hpb⟩ := logAt_spec hb
  calc gmul a b = expAt ((logAt a).toNat + (logAt b).toNat) := if_neg (by simp [ha, hb])
    _ = alphaPower ((logAt a).toNat + (logAt b).toNat) := expAt_eq_alphaPower (by omega)
    _ = xtime^[(logAt a).toNat] b := by rw [← iterate_xtime_alphaPower, hpb]
    _ = polyProduct a b := by rw [← polyProduct_alphaPower, hpa]

/-- The quotient times the divisor is the dividend (R144). -/
theorem gmul_gdiv {a b : Byte} (ha : a ≠ 0x00#8) (hb : b ≠ 0x00#8) : gmul (gdiv a b) b = a := by
  obtain ⟨-, hpa⟩ := logAt_spec ha
  obtain ⟨hlb, hpb⟩ := logAt_spec hb
  have hq : gdiv a b = alphaPower ((logAt a).toNat + 255 - (logAt b).toNat) := by
    rw [gdiv, if_neg (by simp [ha, hb]), expAt_eq_alphaPower (by omega), alphaPower_mod]
  calc gmul (gdiv a b) b = xtime^[(logAt a).toNat + 255 - (logAt b).toNat] b := by
        rw [gmul_eq_polyProduct, hq, polyProduct_alphaPower]
    _ = alphaPower ((logAt a).toNat + 255 - (logAt b).toNat + (logAt b).toNat) := by
        rw [← iterate_xtime_alphaPower, hpb]
    _ = alphaPower ((logAt a).toNat + 255) := by rw [Nat.sub_add_cancel (by omega)]
    _ = a := by rw [← alphaPower_mod, Nat.add_mod_right, alphaPower_mod, hpa]

theorem gdiv_of_zero {a b : Byte} (h : a = 0x00#8 ∨ b = 0x00#8) : gdiv a b = 0x00#8 := if_pos h

theorem gmul_comm (a b : Byte) : gmul a b = gmul b a :=
  if_congr or_comm rfl (congrArg expAt (Nat.add_comm _ _))

/-- A nonzero factor multiplies by x as often as its logarithm says, which is additive. -/
theorem gmul_xor (a b c : Byte) : gmul a (b ^^^ c) = gmul a b ^^^ gmul a c := by
  by_cases ha : a = 0x00#8
  · subst ha
    simp only [gmul_zero_left, BitVec.xor_self]
  · obtain ⟨-, hpa⟩ := logAt_spec ha
    rw [← hpa]
    simp only [gmul_eq_polyProduct, polyProduct_alphaPower, iterate_xtime_xor]

/-! ### Completions with a RESULT -/

theorem complete_setResult (v : Byte) (s : State) :
    complete (s.setResult v) = { s with result := v, errcode := .noError, busy := false, done := true } := rfl

theorem exec_gfmul (a b : Byte) (s : State) : exec (.gfmul a b) s = .next (complete (s.setResult (gmul a b))) := rfl

theorem exec_gflog (a : Byte) (s : State) :
    exec (.gflog a) s = .next (checked (logCheck a) (fun s => s.setResult (logAt a)) s) := rfl

theorem exec_gfexp (idx : Nat) (s : State) :
    exec (.gfexp idx) s = .next (checked (expCheck idx) (fun s => s.setResult (expAt idx)) s) := rfl

/-! ### The statements -/

/-- Settles O15: GFMUL completes with the product by tables, which is the polynomial product. -/
theorem gfmulGivesThePolynomialProduct : Obligations.GfmulGivesThePolynomialProduct := by
  intro a b s
  rw [exec_gfmul, complete_setResult, gmul_eq_polyProduct]

/-- Settles O16: the quotient by tables is the one that times b gives a. -/
theorem gfdivGivesTheFieldQuotient : Obligations.GfdivGivesTheFieldQuotient := fun a b _ =>
  ⟨gdiv a b, rfl, gdiv_of_zero, fun ha hb => (gmul_eq_polyProduct _ b).symm.trans (gmul_gdiv ha hb)⟩

/-- Settles O17: LOG names the exponent of a nonzero operand, and 0 fails the operand check. -/
theorem gflogGivesTheDiscreteLogOrLogZero : Obligations.GflogGivesTheDiscreteLogOrLogZero := by
  refine fun a s => ⟨fun ha => ?logarithm, fun ha => ?logZero⟩
  case logarithm =>
    obtain ⟨hle, hpow⟩ := logAt_spec ha
    refine ⟨(logAt a).toNat, hle, hpow, ?_⟩
    rw [BitVec.ofNat_toNat, BitVec.setWidth_eq, exec_gflog, logCheck, if_pos ha, checked_noError, complete_setResult]
  case logZero =>
    subst ha
    rfl

/-- Settles O18: EXP holds the power up to index 509, and a larger index fails the operand check. -/
theorem gfexpGivesThePowerOrExpRange : Obligations.GfexpGivesThePowerOrExpRange := by
  refine fun idx s => ⟨fun hidx => ?power, fun hidx => ?expRange⟩
  case power =>
    rw [exec_gfexp, expCheck, if_pos hidx, checked_noError, complete_setResult, alphaPower_mod,
      expAt_eq_alphaPower hidx]
  case expRange =>
    rw [exec_gfexp, expCheck, if_neg (by omega)]
    rfl

/-- Settles O19: EXP lists the powers of 0x02, LOG their exponents. -/
theorem tablesHoldPowersAndLogs : Obligations.TablesHoldPowersAndLogs := by
  have hlog {i : Nat} (hi : i ≤ 254) : (logAt (expAt i)).toNat = i := by
    rw [expAt_eq_alphaPower (by omega), logAt_alphaPower hi]
  refine ⟨fun i hi => ?powers, fun i hi => ?inverse, fun a ha => (logAt_spec ha).1, fun a ha => ?onto,
    fun i j hi hj h => ?once, fun i hi => ?nonzero, alphaPower_order, logAt_zero, fun a b => rfl⟩
  case powers => rw [expAt_eq_alphaPower hi, alphaPower_mod]
  case inverse => rw [← BitVec.toNat_inj, hlog hi, BitVec.toNat_ofNat, Nat.mod_eq_of_lt (by omega)]
  case onto =>
    obtain ⟨hle, hpow⟩ := logAt_spec ha
    exact ⟨(logAt a).toNat, hle, (expAt_eq_alphaPower (by omega)).trans hpow⟩
  case once => rw [← hlog hi, h, hlog hj]
  case nonzero => rw [expAt_eq_alphaPower hi]; exact alphaPower_ne_zero i

/-- Settles O20: the inverse is the quotient of 1, and the other laws are those of the product. -/
theorem fieldLawsHold : Obligations.FieldLawsHold :=
  ⟨fun a ha => (gmul_comm a _).trans (gmul_gdiv (by decide) ha), gmul_comm, gmul_xor, gmul_zero_right⟩

/-- Settles O14: GFADD completes with RESULT set to the xor. -/
theorem gfaddGivesTheXor : Obligations.GfaddGivesTheXor := by
  intro a b s
  rfl

end Sys2Proof.Machine
end

section
/-! SUPPORT. Polynomials over the field as functions of their coefficients: Horner's method, division by z + x, that
values at distinct points determine a polynomial, and the statements of 42_interpolation.md. -/

namespace Sys2Proof.Machine

/-! ### The field -/

theorem xor_gmul (a b c : Byte) : gmul (a ^^^ b) c = gmul a c ^^^ gmul b c := by
  simp only [gmul_comm _ c, gmul_xor]

theorem gmul_one (a : Byte) : gmul a 0x01#8 = a := by
  rw [gmul_comm, gmul_eq_polyProduct, polyProduct_one_left]

/-- Multiplying a product by x, i times, is multiplying its first factor by x, i times. -/
theorem gmul_iterate_xtime (i : Nat) (b c : Byte) : gmul (xtime^[i] b) c = xtime^[i] (gmul b c) := by
  have hsemi : Function.Semiconj (gmul · c) xtime xtime := fun b => by
    simp only [gmul_eq_polyProduct, polyProduct_xtime_left]
  exact hsemi.iterate_right i b

theorem gmul_assoc (a b c : Byte) : gmul (gmul a b) c = gmul a (gmul b c) := by
  by_cases ha : a = 0x00#8
  · simp only [ha, gmul_zero_left]
  · obtain ⟨-, hpow⟩ := logAt_spec ha
    have hmul (v : Byte) : gmul a v = xtime^[(logAt a).toNat] v := by
      rw [gmul_eq_polyProduct, ← polyProduct_alphaPower, hpow]
    rw [hmul, hmul, gmul_iterate_xtime]

theorem gmul_ne_zero {a b : Byte} (ha : a ≠ 0x00#8) (hb : b ≠ 0x00#8) : gmul a b ≠ 0x00#8 := by
  obtain ⟨hla, -⟩ := logAt_spec ha
  obtain ⟨hlb, -⟩ := logAt_spec hb
  rw [gmul, if_neg (by simp [ha, hb]), expAt_eq_alphaPower (by omega)]
  exact alphaPower_ne_zero _

theorem gmul_left_cancel {a b c : Byte} (ha : a ≠ 0x00#8) (h : gmul a b = gmul a c) : b = c := by
  by_contra hne
  refine gmul_ne_zero ha (mt BitVec.xor_eq_zero_iff.1 hne) ?_
  rw [gmul_xor, h, BitVec.xor_self]

theorem gmul_gdiv_cancel (a : Byte) {b : Byte} (hb : b ≠ 0x00#8) : gmul (gdiv a b) b = a := by
  by_cases ha : a = 0x00#8
  · rw [gdiv_of_zero (.inl ha), gmul_zero_left, ha]
  · exact gmul_gdiv ha hb

/-! ### Values of polynomials -/

/-- The terms from z^k on are z^k times the value by Horner's method. -/
theorem polyTerms_eq_gmul_evalPoly (z : Byte) (k : Nat) (c : List Byte) :
    polyTerms z k c = gmul (evalPoly c z) (gpow z k) := by
  induction c generalizing k with
  | nil => exact (gmul_zero_left _).symm
  | cons a as ih =>
    rw [polyTerms, ih, evalPoly_cons, xor_gmul, gpow, gmul_assoc, gmul_comm z, BitVec.xor_comm]

theorem polyValue_eq_evalPoly (c : List Byte) (z : Byte) : polyValue c z = evalPoly c z := by
  rw [polyValue, polyTerms_eq_gmul_evalPoly, gpow, gmul_one]

@[simp] theorem evalPoly_replicate_zero (n : Nat) (z : Byte) : evalPoly (List.replicate n 0x00#8) z = 0x00#8 := by
  induction n with
  | zero => rfl
  | succ n ih => rw [List.replicate_succ, evalPoly_cons, ih, gmul_zero_left, BitVec.xor_self]

/-- Adding a multiple of another polynomial adds that multiple of its value. -/
theorem evalPoly_addScaled {c q : List Byte} (h : c.length = q.length) (scale z : Byte) :
    evalPoly (List.zipWith (fun ck qk => ck ^^^ gmul scale qk) c q) z = evalPoly c z ^^^ gmul scale (evalPoly q z) := by
  induction c generalizing q with
  | nil =>
    rw [List.eq_nil_of_length_eq_zero h.symm, evalPoly_nil, gmul_zero_right]
    rfl
  | cons a as ih =>
    cases q with
    | nil => cases h
    | cons b bs =>
      rw [List.zipWith_cons_cons, evalPoly_cons, ih (Nat.succ.inj h), evalPoly_cons, evalPoly_cons, xor_gmul, gmul_xor,
        gmul_assoc]
      ac_rfl

/-! ### Division by z + x -/

theorem divideTail_cons (x a : Byte) (as : List Byte) :
    divideTail x (a :: as) = evalPoly (a :: as) x :: divideTail x as := by
  rw [divideTail, headD_divideTail, evalPoly_cons, BitVec.xor_comm]

/-- The synthetic division loses nothing but the constant coefficient. -/
theorem divideTail_injective {x : Byte} {c c' : List Byte} (h : divideTail x c = divideTail x c') : c = c' := by
  induction c generalizing c' with
  | nil => exact (List.eq_nil_of_length_eq_zero (by simpa using (congrArg List.length h).symm)).symm
  | cons a as ih =>
    cases c' with
    | nil => cases h
    | cons b bs =>
      rw [divideTail_cons, divideTail_cons, List.cons.injEq] at h
      obtain ⟨hhead, htail⟩ := h
      obtain rfl := ih htail
      rw [evalPoly_cons, evalPoly_cons, BitVec.xor_right_inj] at hhead
      rw [hhead]

/-- The quotient of a polynomial with one more coefficient below. -/
theorem evalPoly_quotient_cons (a : Byte) (as : List Byte) (x z : Byte) :
    evalPoly (quotient (a :: as) x) z = gmul (evalPoly (quotient as x) z) z ^^^ evalPoly as x := by
  cases as with
  | nil => exact (congrArg (· ^^^ 0x00#8) (gmul_zero_left z)).symm
  | cons b bs => exact congrArg (evalPoly · z) (divideTail_cons x b bs)

/-- Division with remainder: P(z) is (z + x) times the quotient, plus P(x) (R162). -/
theorem evalPoly_eq_quotient (m : List Byte) (x z : Byte) :
    evalPoly m z = gmul (z ^^^ x) (evalPoly (quotient m x) z) ^^^ evalPoly m x := by
  induction m with
  | nil => exact (congrArg (· ^^^ 0x00#8) (gmul_zero_right (z ^^^ x))).symm
  | cons a as ih =>
    have hcross : gmul (z ^^^ x) (evalPoly as x) ^^^ gmul (evalPoly as x) x = gmul (evalPoly as x) z := by
      rw [gmul_comm, gmul_xor, BitVec.xor_assoc, BitVec.xor_self, BitVec.xor_zero]
    calc evalPoly (a :: as) z
        = gmul (z ^^^ x) (gmul (evalPoly (quotient as x) z) z) ^^^ gmul (evalPoly as x) z ^^^ a := by
          rw [evalPoly_cons, ih, xor_gmul, gmul_assoc]
      _ = gmul (z ^^^ x) (evalPoly (quotient (a :: as) x) z) ^^^ evalPoly (a :: as) x := by
          rw [← hcross, evalPoly_quotient_cons, gmul_xor, evalPoly_cons]
          ac_rfl

/-- n coefficients are determined by the values at n distinct points (R160). -/
theorem eq_of_evalPoly_eq {xs : List Byte} (hd : xs.Nodup) {c c' : List Byte} (hc : c.length = xs.length)
    (hc' : c'.length = xs.length) (h : ∀ x ∈ xs, evalPoly c x = evalPoly c' x) : c = c' := by
  induction xs generalizing c c' with
  | nil => rw [List.eq_nil_of_length_eq_zero hc, List.eq_nil_of_length_eq_zero hc']
  | cons x xs ih =>
    obtain ⟨hx, hd⟩ := List.nodup_cons.1 hd
    obtain ⟨a, as, rfl⟩ := List.exists_cons_of_length_eq_add_one hc
    obtain ⟨b, bs, rfl⟩ := List.exists_cons_of_length_eq_add_one hc'
    have hroot := h x List.mem_cons_self
    have hquot : quotient (a :: as) x = quotient (b :: bs) x := by
      refine ih hd (by simpa using hc) (by simpa using hc') fun z hz => ?_
      have hzx : z ^^^ x ≠ 0x00#8 := fun e => hx (BitVec.xor_eq_zero_iff.1 e ▸ hz)
      refine gmul_left_cancel hzx ((BitVec.xor_left_inj (evalPoly (b :: bs) x)).1 ?_)
      rw [← evalPoly_eq_quotient, ← hroot, ← evalPoly_eq_quotient, h z (List.mem_cons_of_mem x hz)]
    obtain rfl : as = bs := divideTail_injective hquot
    rw [evalPoly_cons, evalPoly_cons, BitVec.xor_right_inj] at hroot
    rw [hroot]

/-! ### The polynomial whose roots are the xs -/

/-- One step of the product loop with a coefficient a below, where the loop starts with 0 (R162). -/
theorem evalPoly_mulLinear_carry (a : Byte) (m : List Byte) (x z : Byte) :
    evalPoly (List.zipWith (· ^^^ ·) (a :: m) (m.map (fun mk => gmul mk x) ++ [0x00#8])) z =
      gmul (evalPoly m z) (z ^^^ x) ^^^ a := by
  induction m generalizing a with
  | nil => simp [gmul_zero_left]
  | cons b m ih =>
    rw [List.map_cons, List.cons_append, List.zipWith_cons_cons, evalPoly_cons, ih]
    simp only [evalPoly_cons, xor_gmul, gmul_xor, gmul_assoc, gmul_comm x z]
    ac_rfl

theorem evalPoly_mulLinear (m : List Byte) (x z : Byte) : evalPoly (mulLinear m x) z = gmul (evalPoly m z) (z ^^^ x) :=
  (evalPoly_mulLinear_carry 0x00#8 m x z).trans BitVec.xor_zero

/-- The product loop adds the xs to the roots and no other point (R162). -/
theorem evalPoly_foldl_mulLinear_eq_zero_iff (xs m : List Byte) (z : Byte) :
    evalPoly (xs.foldl mulLinear m) z = 0x00#8 ↔ evalPoly m z = 0x00#8 ∨ z ∈ xs := by
  induction xs generalizing m with
  | nil => simp
  | cons x xs ih =>
    have hstep : evalPoly (mulLinear m x) z = 0x00#8 ↔ evalPoly m z = 0x00#8 ∨ z = x := by
      rw [evalPoly_mulLinear, ← BitVec.xor_eq_zero_iff (x := z)]
      refine ⟨fun h => ?_, fun h => ?_⟩
      · by_contra! hne
        exact gmul_ne_zero hne.1 hne.2 h
      · obtain h | h := h
        · rw [h, gmul_zero_left]
        · rw [h, gmul_zero_right]
    rw [List.foldl_cons, ih, hstep, List.mem_cons, or_assoc]

theorem evalPoly_rootProduct_eq_zero_iff (xs : List Byte) (z : Byte) :
    evalPoly (rootProduct xs) z = 0x00#8 ↔ z ∈ xs := by
  have hone : evalPoly [0x01#8] z ≠ 0x00#8 := by simp [gmul_zero_left]
  rw [rootProduct, evalPoly_foldl_mulLinear_eq_zero_iff, or_iff_right hone]

/-- The quotient by a root's factor takes the values of M up to that factor. -/
theorem evalPoly_rootProduct_eq_quotient {xs : List Byte} {x : Byte} (hx : x ∈ xs) (z : Byte) :
    evalPoly (rootProduct xs) z = gmul (z ^^^ x) (evalPoly (quotient (rootProduct xs) x) z) := by
  rw [evalPoly_eq_quotient, (evalPoly_rootProduct_eq_zero_iff xs x).2 hx, BitVec.xor_zero]

theorem evalPoly_quotient_of_ne {xs : List Byte} {x z : Byte} (hx : x ∈ xs) (hz : z ∈ xs) (hne : z ≠ x) :
    evalPoly (quotient (rootProduct xs) x) z = 0x00#8 := by
  have hzero := (evalPoly_rootProduct_eq_zero_iff xs z).2 hz
  rw [evalPoly_rootProduct_eq_quotient hx] at hzero
  by_contra hq
  exact gmul_ne_zero (mt BitVec.xor_eq_zero_iff.1 hne) hq hzero

theorem exists_byte_notMem {xs : List Byte} (h : xs.length < 256) : ∃ z, z ∉ xs := by
  refine Cardinal.exists_notMem_of_length_lt xs ?_
  rw [Cardinal.mk_fintype, Fintype.card_congr BitVec.equivFin.toEquiv, Fintype.card_fin]
  exact Nat.cast_lt.2 h

/-- The divisor of R162 is not 0: with one more root the quotient would be the zero polynomial, and M with it. -/
theorem evalPoly_quotient_self_ne_zero {xs : List Byte} (hd : xs.Nodup) (hn : xs.length < 256) {x : Byte} (hx : x ∈ xs) :
    evalPoly (quotient (rootProduct xs) x) x ≠ 0x00#8 := by
  intro hself
  have hzero : quotient (rootProduct xs) x = List.replicate xs.length 0x00#8 := by
    refine eq_of_evalPoly_eq hd (by simp) (by simp) fun z hz => ?_
    rw [evalPoly_replicate_zero]
    by_cases hzx : z = x
    · rw [hzx, hself]
    · exact evalPoly_quotient_of_ne hx hz hzx
  obtain ⟨z, hz⟩ := exists_byte_notMem hn
  refine hz ((evalPoly_rootProduct_eq_zero_iff xs z).1 ?_)
  rw [evalPoly_rootProduct_eq_quotient hx, hzero, evalPoly_replicate_zero, gmul_zero_right]

/-! ### Interpolation -/

/-- One node changes the value at its own x by its y, and no value at another of the xs (R162). -/
theorem evalPoly_addNode {xs c : List Byte} (hd : xs.Nodup) (hn : xs.length < 256) (hc : c.length = xs.length) {x z : Byte}
    (hx : x ∈ xs) (hz : z ∈ xs) (y : Byte) :
    evalPoly (addNode (rootProduct xs) c (x, y)) z = evalPoly c z ^^^ if z = x then y else 0x00#8 := by
  rw [addNode, evalPoly_addScaled (by simp [hc])]
  split
  case isTrue h => rw [h, gmul_gdiv_cancel y (evalPoly_quotient_self_ne_zero hd hn hx)]
  case isFalse h => rw [evalPoly_quotient_of_ne hx hz h, gmul_zero_right]

theorem length_addNode_rootProduct {xs c : List Byte} (hc : c.length = xs.length) (node : Byte × Byte) :
    (addNode (rootProduct xs) c node).length = xs.length := by
  simp [hc]

/-- Nodes at other points leave the value at z. -/
theorem evalPoly_foldl_addNode_of_ne {xs c : List Byte} (hd : xs.Nodup) (hn : xs.length < 256) (hc : c.length = xs.length)
    {z : Byte} (hz : z ∈ xs) {nodes : List (Byte × Byte)} (hsub : ∀ node ∈ nodes, node.1 ∈ xs)
    (hne : ∀ node ∈ nodes, z ≠ node.1) : evalPoly (nodes.foldl (addNode (rootProduct xs)) c) z = evalPoly c z := by
  induction nodes generalizing c with
  | nil => rfl
  | cons node nodes ih =>
    rw [List.forall_mem_cons] at hsub hne
    rw [List.foldl_cons, ih (length_addNode_rootProduct hc node) hsub.2 hne.2, evalPoly_addNode hd hn hc hsub.1 hz,
      if_neg hne.1, BitVec.xor_zero]

/-- Of nodes at distinct points, the one at z adds its y to the value there. -/
theorem evalPoly_foldl_addNode_of_mem {xs c : List Byte} (hd : xs.Nodup) (hn : xs.length < 256) (hc : c.length = xs.length)
    {z y : Byte} {nodes : List (Byte × Byte)} (hsub : ∀ node ∈ nodes, node.1 ∈ xs) (hdist : (nodes.map Prod.fst).Nodup)
    (h : (z, y) ∈ nodes) : evalPoly (nodes.foldl (addNode (rootProduct xs)) c) z = evalPoly c z ^^^ y := by
  have hz : z ∈ xs := hsub _ h
  induction nodes generalizing c with
  | nil => cases h
  | cons node nodes ih =>
    obtain ⟨hnode, hdist⟩ := List.nodup_cons.1 hdist
    rw [List.forall_mem_cons] at hsub
    obtain ⟨hx, hrest⟩ := hsub
    have hapart : ∀ node' ∈ nodes, node'.1 ≠ node.1 := fun node' h' e => hnode (List.mem_map.2 ⟨node', h', e⟩)
    have hlen := length_addNode_rootProduct hc node
    rw [List.foldl_cons]
    obtain rfl | h := List.mem_cons.1 h
    · rw [evalPoly_foldl_addNode_of_ne hd hn hlen hz hrest fun node' h' => (hapart node' h').symm,
        evalPoly_addNode hd hn hc hx hz, if_pos rfl]
    · rw [ih hlen hrest hdist h, evalPoly_addNode hd hn hc hx hz, if_neg (hapart _ h), BitVec.xor_zero]

/-- The interpolant goes through its nodes (R160). -/
theorem evalPoly_interpolate {xs ys : List Byte} (hd : xs.Nodup) (hn : xs.length < 256) (hlen : ys.length = xs.length)
    {i : Nat} (hi : i < xs.length) : evalPoly (interpolate xs ys) (xs.getD i 0x00#8) = ys.getD i 0x00#8 := by
  have hzip : i < (xs.zip ys).length := by rw [List.length_zip]; omega
  have hmem : (xs.getD i 0x00#8, ys.getD i 0x00#8) ∈ xs.zip ys := by
    rw [List.getD_eq_getElem xs _ hi, List.getD_eq_getElem ys _ (by omega), ← List.getElem_zip (h := hzip)]
    exact List.getElem_mem hzip
  have hdist : ((xs.zip ys).map Prod.fst).Nodup := by rwa [List.map_fst_zip hlen.ge]
  rw [interpolate, evalPoly_foldl_addNode_of_mem hd hn List.length_replicate (fun _ h => (List.of_mem_zip h).1) hdist hmem,
    evalPoly_replicate_zero, BitVec.zero_xor]

/-! ### The commands -/

/-- INTERP, EVAL and SHUFFLE run for a count of 1 to 64 (R124). -/
theorem checked_countCheck {n : Nat} (h1 : 1 ≤ n) (h64 : n ≤ 64) (effect : State → State) (s : State) :
    checked (countCheck n) effect s = complete (effect s) := by
  rw [(countCheck_eq_noError_iff n).2 ⟨h1, h64⟩, checked_noError]

/-- Any other count is BAD_COUNT and writes nothing else (R124, R232). -/
theorem checked_countCheck_badCount {n : Nat} (h : n = 0 ∨ 64 < n) (effect : State → State) (s : State) :
    checked (countCheck n) effect s = { s with errcode := .badCount, busy := false, done := true } := by
  rw [countCheck, if_neg (by rw [Config.maxN]; omega)]
  rfl

theorem exec_interp (n : Nat) (s : State) : exec (.interp n) s = .next (checked (countCheck n) (interpEffect n) s) := rfl

theorem exec_eval (n : Nat) (x : Byte) (s : State) : exec (.eval n x) s =
    .next (checked (countCheck n) (fun s => s.setResult (evalPoly (s.bytes .coef n) x)) s) := rfl

theorem interpEffect_of_nodup {n : Nat} {s : State} (hd : (s.bytes .xs n).Nodup) :
    interpEffect n s = s.store .coef (interpolate (s.bytes .xs n) (s.bytes .ys n)) := if_pos hd

theorem interpEffect_of_not_nodup {n : Nat} {s : State} (hd : ¬ (s.bytes .xs n).Nodup) :
    interpEffect n s = (drawBytes n s).2.store .coef (drawBytes n s).1 := if_neg hd

/-! ### The statements -/

/-- Settles O21: `polyValue` sums the terms that Horner's method nests. -/
theorem hornerGivesThePolynomialValue : Obligations.HornerGivesThePolynomialValue :=
  fun c x => (polyValue_eq_evalPoly c x).symm

/-- Settles O22: the count check, and Horner's method gives the value. -/
theorem evalGivesThePolynomialValueOrBadCount : Obligations.EvalGivesThePolynomialValueOrBadCount := by
  refine fun n x s => ⟨fun h1 h64 => ?value, fun hn => ?badCount⟩
  case value => rw [exec_eval, checked_countCheck h1 h64, complete_setResult, polyValue_eq_evalPoly]
  case badCount => rw [exec_eval, checked_countCheck_badCount hn]

/-- Settles O23: the interpolant goes through the nodes, and n coefficients are determined by n values. -/
theorem interpolationGivesTheUniquePolynomial : Obligations.InterpolationGivesTheUniquePolynomial := by
  intro xs ys c _ hn hlen hd hc
  have hnode {i : Nat} (hi : i < xs.length) := evalPoly_interpolate hd (by omega) hlen hi
  simp only [polyValue_eq_evalPoly]
  refine ⟨fun h => ?unique, fun h i hi => h ▸ hnode hi⟩
  case unique =>
    refine eq_of_evalPoly_eq hd hc (length_interpolate xs ys) fun x hx => ?_
    obtain ⟨i, hi, rfl⟩ := List.getElem_of_mem hx
    rw [← List.getD_eq_getElem xs 0x00#8 hi, h i hi, hnode hi]

/-- Settles O24: the count check, then the two cases of the effect. -/
theorem interpCompletesInItsThreeCases : Obligations.InterpCompletesInItsThreeCases := by
  refine fun n s => ⟨fun h1 h64 hd => ?distinct, fun h1 h64 hd => ?equal, fun hn => ?badCount⟩
  case distinct =>
    rw [exec_interp, checked_countCheck h1 h64, interpEffect_of_nodup hd]
    rfl
  case equal =>
    rw [exec_interp, checked_countCheck h1 h64, interpEffect_of_not_nodup hd]
    rfl
  case badCount => rw [exec_interp, checked_countCheck_badCount hn]

/-- Settles O25: EVAL reads back the coefficients INTERP stored, and the interpolant goes through the node. -/
theorem interpThenEvalGivesTheNode : Obligations.InterpThenEvalGivesTheNode := by
  intro n i s hm h1 h64 hd hi
  refine ⟨_, _, exec_interp n s, exec_eval n _ _, ?_⟩
  have hcoef : (complete (s.store .coef (interpolate (s.bytes .xs n) (s.bytes .ys n)))).bytes .coef n =
      interpolate (s.bytes .xs n) (s.bytes .ys n) := by
    have hread := Memory.readBytes_writeBytes_same hm Window.coef.base (interpolate (s.bytes .xs n) (s.bytes .ys n))
    rwa [length_interpolate, length_bytes] at hread
  rw [checked_countCheck h1 h64, checked_countCheck h1 h64, interpEffect_of_nodup hd, complete_result, State.setResult_result,
    hcoef]
  exact evalPoly_interpolate hd (by simp; omega) (by simp) (by simpa using hi)

end Sys2Proof.Machine
end

section
/-! SUPPORT. Swaps and the steps of the shuffle: what a step leaves unchanged, the first step taken off, and the statements of
43_permutation.md. -/

namespace Sys2Proof.Machine

/-! ### Swaps -/

theorem swapAt_comm (seq : List Byte) (i j : Nat) : swapAt seq i j = swapAt seq j i := by
  obtain rfl | hij := eq_or_ne i j
  · rfl
  · exact List.set_comm _ _ hij

theorem swapAt_self {seq : List Byte} {i : Nat} (hi : i < seq.length) : swapAt seq i i = seq := by
  rw [swapAt, List.set_set, List.getD_eq_getElem _ _ hi, List.set_getElem_self]

theorem swapAt_perm {seq : List Byte} {i j : Nat} (hi : i < seq.length) (hj : j < seq.length) :
    (swapAt seq i j).Perm seq := by
  rw [swapAt, List.getD_eq_getElem _ _ hi, List.getD_eq_getElem _ _ hj]
  exact List.set_set_perm hi hj

/-- A swap of two bytes of the front leaves the rest in place. -/
theorem swapAt_append {seq : List Byte} {i j : Nat} (hi : i < seq.length) (hj : j < seq.length) (rest : List Byte) :
    swapAt (seq ++ rest) i j = swapAt seq i j ++ rest := by
  rw [swapAt, List.getD_append _ _ _ _ hi, List.getD_append _ _ _ _ hj, List.set_append_left _ _ hi,
    List.set_append_left _ _ (by simpa using hj), swapAt]

/-- A swap with the last byte: it takes the place of seq[j], and seq[j] comes last. -/
theorem swapAt_last {seq : List Byte} {m j : Nat} (hlen : seq.length = m + 1) :
    swapAt seq m j = (seq.set j (seq.getD m 0x00#8)).take m ++ [seq.getD j 0x00#8] := by
  have hlast : m < (swapAt seq j m).length := by simp [hlen]
  calc swapAt seq m j = swapAt seq j m := swapAt_comm seq m j
    _ = (swapAt seq j m).take (m + 1) := (List.take_of_length_le (by simp [hlen])).symm
    _ = (swapAt seq j m).take m ++ [(swapAt seq j m)[m]] := (List.take_append_getElem hlast).symm
    _ = _ := by simp only [swapAt, List.getElem_set_self, List.take_set_of_le (Nat.le_refl m)]

/-! ### The steps of the shuffle -/

/-- The index that R180 draws for step i is at most i. -/
theorem shuffle_index_lt {i len : Nat} (h : i + 1 < len) (k : Nat) : k % (i + 2) < len :=
  (Nat.mod_lt k (by omega)).trans_le h

/-- Each step swaps two bytes (R180). -/
theorem shuffleFrom_perm (seed : List Byte) {top : Nat} {seq : List Byte} (h : top < seq.length) :
    (shuffleFrom seed top seq).Perm seq := by
  induction top generalizing seq with
  | zero => exact .rfl
  | succ i ih => exact (ih (by simp; omega)).trans (swapAt_perm h (shuffle_index_lt h _))

/-- The steps from top on leave the bytes above top in place. -/
theorem shuffleFrom_append (seed : List Byte) {top : Nat} {seq : List Byte} (h : top < seq.length) (rest : List Byte) :
    shuffleFrom seed top (seq ++ rest) = shuffleFrom seed top seq ++ rest := by
  induction top generalizing seq with
  | zero => rfl
  | succ i ih => rw [shuffleFrom, swapAt_append h (shuffle_index_lt h _), ih (by simp; omega), shuffleFrom]

/-- The steps from top on read no seed byte above top. -/
theorem shuffleFrom_take_seed (seed : List Byte) {k top : Nat} (h : top < k) (seq : List Byte) :
    shuffleFrom (seed.take k) top seq = shuffleFrom seed top seq := by
  induction top generalizing seq with
  | zero => rfl
  | succ i ih =>
    have hseed : (seed.take k).getD (i + 1) 0x00#8 = seed.getD (i + 1) 0x00#8 := by
      simp only [List.getD_eq_getElem?_getD, List.getElem?_take_of_lt h]
    rw [shuffleFrom, shuffleFrom, hseed, ih (by omega)]

/-- A seed that draws every byte's own index swaps nothing. -/
theorem shuffleFrom_eq_self {seed : List Byte} {top : Nat} {seq : List Byte} (h : top < seq.length)
    (hseed : ∀ i ≤ top, (seed.getD i 0x00#8).toNat % (i + 1) = i) : shuffleFrom seed top seq = seq := by
  induction top with
  | zero => rfl
  | succ i ih =>
    rw [shuffleFrom, hseed (i + 1) le_rfl, swapAt_self h]
    exact ih (by omega) fun k hk => hseed k (by omega)

/-- The first step puts seq[j] last; the shuffle of the bytes before it follows (R180). -/
theorem shuffle_peel_last (seed : List Byte) {seq : List Byte} {m j : Nat} (hlen : seq.length = m + 2)
    (hj : (seed.getD (m + 1) 0x00#8).toNat % (m + 2) = j) :
    shuffle seed seq (m + 2) =
      shuffle (seed.take (m + 1)) ((seq.set j (seq.getD (m + 1) 0x00#8)).take (m + 1)) (m + 1) ++ [seq.getD j 0x00#8] := by
  calc shuffle seed seq (m + 2) = shuffleFrom seed m (swapAt seq (m + 1) j) := by rw [← hj]; rfl
    _ = shuffleFrom seed m ((seq.set j (seq.getD (m + 1) 0x00#8)).take (m + 1)) ++ [seq.getD j 0x00#8] := by
      rw [swapAt_last hlen, shuffleFrom_append seed (by simp [hlen])]
    _ = _ := by rw [shuffle, Nat.add_sub_cancel, shuffleFrom_take_seed seed (Nat.lt_succ_self m)]

/-! ### The command -/

theorem exec_shuffle (n : Nat) (s : State) : exec (.shuffle n) s =
    .next (checked (countCheck n) (fun s => s.store .seq (shuffle (s.bytes .seed n) (s.bytes .seq n) n)) s) := rfl

/-! ### The statements -/

/-- Settles O27: the first step taken off, and inductions on the steps that are left. -/
theorem shuffleRearrangesAndIgnoresSeedZero : Obligations.ShuffleRearrangesAndIgnoresSeedZero := by
  intro seed seq n h1 _ _ hseq
  have htop : n - 1 < seq.length := by omega
  refine ⟨fun h2 => ?peel, shuffleFrom_perm seed htop, fun b => ?seedZero, fun hown => ?ownIndices⟩
  case peel =>
    obtain ⟨m, rfl⟩ := Nat.exists_eq_add_of_le' h2
    exact shuffle_peel_last seed hseq rfl
  case seedZero => exact shuffle_congr_tail (by cases seed <;> rfl) seq n
  case ownIndices => exact shuffleFrom_eq_self htop fun i hi => hown i (by omega)

/-- Settles O26: the count check, and the effect stores the shuffled bytes. -/
theorem shuffleCompletesOrBadCount : Obligations.ShuffleCompletesOrBadCount := by
  refine fun n s => ⟨fun h1 h64 => ?shuffled, fun hn => ?badCount⟩
  case shuffled =>
    rw [exec_shuffle, checked_countCheck h1 h64]
    rfl
  case badCount => rw [exec_shuffle, checked_countCheck_badCount hn]

end Sys2Proof.Machine
end

section
/-! SUPPORT. The nodes of the round function: the shuffled points are distinct, the values are the bytes plus their indices, and
the statements of 44_round_function.md. -/

namespace Sys2Proof.Machine

/-! ### The nodes -/

/-- The identity sequence repeats no byte: its indices stay below 256. -/
theorem nodup_identitySeq {n : Nat} (hn : n ≤ 256) : (identitySeq n).Nodup := by
  refine List.Nodup.map_on (fun a ha b hb hab => ?_) List.nodup_range
  rw [List.mem_range] at ha hb
  rwa [← BitVec.toNat_inj, BitVec.toNat_ofNat, BitVec.toNat_ofNat, Nat.mod_eq_of_lt (by omega),
    Nat.mod_eq_of_lt (by omega)] at hab

/-- The shuffled points are distinct, since the shuffle only rearranges them (R180). -/
theorem nodup_shuffle_identitySeq (seed : List Byte) {n : Nat} (h1 : 1 ≤ n) (hn : n ≤ 256) :
    (shuffle seed (identitySeq n) n).Nodup := by
  have hperm : (shuffle seed (identitySeq n) n).Perm (identitySeq n) :=
    shuffleFrom_perm seed (by rw [length_identitySeq]; omega)
  exact hperm.nodup_iff.2 (nodup_identitySeq hn)

theorem getD_addIndex {bs : List Byte} {i : Nat} (hi : i < bs.length) :
    (addIndex bs).getD i 0x00#8 = bs.getD i 0x00#8 + BitVec.ofNat 8 i := by
  rw [List.getD_eq_getElem _ _ (by rwa [length_addIndex]), List.getD_eq_getElem _ _ hi]
  exact List.getElem_mapIdx

theorem getD_append_eq_ite (front back : List Byte) (i : Nat) :
    (front ++ back).getD i 0x00#8 =
      if i < front.length then front.getD i 0x00#8 else back.getD (i - front.length) 0x00#8 := by
  split_ifs with hi
  · exact List.getD_append _ _ _ _ hi
  · exact List.getD_append_right _ _ _ _ (not_lt.1 hi)

/-! ### The round function -/

/-- Byte j of F is the value of the interpolant at 255 − j (R190). -/
theorem getD_roundFunction (h rk k2 : List Byte) {j : Nat} (hj : j < 32) :
    (roundFunction h rk k2).getD j 0x00#8 =
      evalPoly (interpolate (shuffle k2 (identitySeq 64) 64) (addIndex (h ++ rk))) (BitVec.ofNat 8 (255 - j)) := by
  rw [List.getD_eq_getElem _ _ (by rwa [length_roundFunction])]
  simp [roundFunction]

/-! ### The command -/

/-- A command that stores to one window writes ERRCODE, BUSY and DONE beside (R122). -/
theorem complete_store (s : State) (w : Window) (bs : List Byte) : complete (s.store w bs) =
    { s with mem := Memory.writeBytes s.mem w.base bs, errcode := .noError, busy := false, done := true } := rfl

/-! ### The statements -/

/-- Settles O29: the coefficients are the interpolant's, which goes through its nodes since the shuffled points are distinct. -/
theorem roundFunctionEvaluatesThePolynomialOfItsNodes : Obligations.RoundFunctionEvaluatesThePolynomialOfItsNodes := by
  intro h rk k2 hh hrk _
  have hxs : (shuffle k2 (identitySeq 64) 64).length = 64 := by simp
  have hlen : (h ++ rk).length = 64 := by simp [hh, hrk]
  have hd := nodup_shuffle_identitySeq k2 (n := 64) (by omega) (by omega)
  refine ⟨interpolate (shuffle k2 (identitySeq 64) 64) (addIndex (h ++ rk)), by simp, fun i hi => ?nodes,
    length_roundFunction h rk k2, fun j hj => ?values⟩
  case nodes =>
    rw [polyValue_eq_evalPoly, evalPoly_interpolate hd (by omega) (by rw [length_addIndex, hlen, hxs]) (by omega),
      getD_addIndex (by omega), getD_append_eq_ite, hh]
  case values => rw [polyValue_eq_evalPoly, getD_roundFunction h rk k2 hj]

/-- Settles O28: ROUNDF stores F of its buffers at FOUT and completes. -/
theorem roundfCompletes : Obligations.RoundfCompletes := by
  intro s
  rw [exec_roundf, complete_store]

end Sys2Proof.Machine
end

section
/-! SUPPORT. The polynomial and the points of the key schedule, what a chain of KEYSCHED commands leaves in the windows, and the
statements of 45_key_schedule.md. -/

namespace Sys2Proof.Machine

/-! ### The polynomial and the points -/

/-- The polynomial through the unshuffled nodes (i, in[i] + i) (R200). -/
def keyPolynomial (input : List Byte) : List Byte := interpolate (identitySeq 32) (addIndex input)

/-- The key schedule is three windows of one polynomial at the shuffled points sx, and k2[32..63] (R200). -/
theorem keySchedule_eq (input k2 : List Byte) {sx : List Byte} (hsx : shuffle (k2.take 32) (identitySeq 32) 32 = sx) :
    keySchedule input k2 =
      { out := windowValues (keyPolynomial input) sx 64#8
        next := windowValues (keyPolynomial input) sx 128#8
        k2 := windowValues (keyPolynomial input) sx 192#8 ++ k2.drop 32 } := by
  rw [← hsx]
  rfl

@[simp] theorem length_keyPolynomial (input : List Byte) : (keyPolynomial input).length = 32 := by
  simp [keyPolynomial]

theorem getD_identitySeq {n i : Nat} (hi : i < n) : (identitySeq n).getD i 0x00#8 = BitVec.ofNat 8 i := by
  simp [identitySeq, hi]

theorem getD_windowValues (c : List Byte) {sx : List Byte} {i : Nat} (hi : i < sx.length) (offset : Byte) :
    (windowValues c sx offset).getD i 0x00#8 = evalPoly c (offset + sx.getD i 0x00#8) := by
  simp [windowValues, hi]

/-- The polynomial goes through its nodes, whose points 0..31 are distinct (R200). -/
theorem evalPoly_keyPolynomial {input : List Byte} (hlen : input.length = 32) {i : Nat} (hi : i < 32) :
    evalPoly (keyPolynomial input) (BitVec.ofNat 8 i) = input.getD i 0x00#8 + BitVec.ofNat 8 i := by
  have hnode := evalPoly_interpolate (xs := identitySeq 32) (ys := addIndex input) (i := i)
    (nodup_identitySeq (by decide)) (by simp) (by simp [hlen]) (by simpa using hi)
  rwa [getD_identitySeq hi, getD_addIndex (by omega)] at hnode

/-! ### The zero key state -/

/-- The zero key state has the points themselves as its values (R201). -/
theorem addIndex_replicate_zero (n : Nat) : addIndex (List.replicate n 0x00#8) = identitySeq n := by
  refine List.ext_getElem (by simp) fun i _ _ => ?_
  simp [addIndex, identitySeq]

/-- The polynomial z, with any number of zero coefficients above, has the value z at z. -/
theorem evalPoly_z (n : Nat) (z : Byte) : evalPoly (0x00#8 :: 0x01#8 :: List.replicate n 0x00#8) z = z := by
  rw [evalPoly_cons, evalPoly_cons, evalPoly_replicate_zero, gmul_zero_left, BitVec.zero_xor, gmul_comm, gmul_one,
    BitVec.xor_zero]

/-- The polynomial of the zero key state is z, since z goes through its nodes and no other does (R201). -/
theorem keyPolynomial_zero :
    keyPolynomial (List.replicate 32 0x00#8) = 0x00#8 :: 0x01#8 :: List.replicate 30 0x00#8 := by
  rw [keyPolynomial, addIndex_replicate_zero]
  have hunique := interpolationGivesTheUniquePolynomial (identitySeq 32) (identitySeq 32)
    (0x00#8 :: 0x01#8 :: List.replicate 30 0x00#8) (by simp) (by simp) rfl (nodup_identitySeq (by decide)) (by simp)
  exact (hunique.1 fun i _ => (polyValue_eq_evalPoly _ _).trans (evalPoly_z 30 _)).symm

theorem windowValues_keyPolynomial_zero (sx : List Byte) (offset : Byte) :
    windowValues (keyPolynomial (List.replicate 32 0x00#8)) sx offset = sx.map (fun x => offset + x) := by
  simp only [windowValues, keyPolynomial_zero, evalPoly_z]

/-! ### The windows after a command -/

@[simp] theorem buffer_bumpIv (s : State) (inc : Bool) (w : Window) : (s.bumpIv inc).buffer w = s.buffer w := by
  cases inc <;> rfl

theorem State.store_wf {s : State} (hm : Memory.wf s.mem = true) (w : Window) (bs : List Byte) :
    Memory.wf (s.store w bs).mem = true :=
  Memory.writeBytes_wf hm _ _

theorem State.storeKeyed_wf {s : State} (hm : Memory.wf s.mem = true) (w : Window) (bs k1 k2 : List Byte) :
    Memory.wf (s.storeKeyed w bs k1 k2).mem = true :=
  State.store_wf (State.store_wf (State.store_wf hm w bs) .k1 k1) .k2 k2

/-- A completion of keyed stores leaves a canonical memory, with what was stored in the three windows. -/
theorem buffer_complete_storeKeyed {s : State} (hm : Memory.wf s.mem = true) {w : Window} (hw1 : w ≠ .k1) (hw2 : w ≠ .k2)
    {bs k1 k2 : List Byte} (hbs : bs.length = w.size) (hk1 : k1.length = 32) (hk2 : k2.length = 64) :
    Memory.wf (complete (s.storeKeyed w bs k1 k2)).mem = true ∧ (complete (s.storeKeyed w bs k1 k2)).buffer w = bs ∧
      (complete (s.storeKeyed w bs k1 k2)).buffer .k1 = k1 ∧ (complete (s.storeKeyed w bs k1 k2)).buffer .k2 = k2 :=
  ⟨State.storeKeyed_wf hm w bs k1 k2, State.buffer_storeKeyed hm hw1 hw2 hbs hk1 hk2⟩

/-- A command whose stores are keyed writes ERRCODE, BUSY and DONE beside (R122). -/
theorem complete_storeKeyed (s : State) (w : Window) (bs k1 k2 : List Byte) : complete (s.storeKeyed w bs k1 k2) =
    { s with
      mem := Memory.writeBytes (Memory.writeBytes (Memory.writeBytes s.mem w.base bs) Window.k1.base k1) Window.k2.base k2,
      errcode := .noError, busy := false, done := true } := rfl

/-- KEYSCHED on a canonical memory leaves one, with the three results in KSOUT, K1 and K2, where the next KEYSCHED reads
them (R202). -/
theorem exec_keysched_buffers {s : State} (hm : Memory.wf s.mem = true) {k1 k2 : List Byte} (hk1 : s.buffer .k1 = k1)
    (hk2 : s.buffer .k2 = k2) : ∃ t, exec .keysched s = .next t ∧ Memory.wf t.mem = true ∧
      t.buffer .ksout = (keySchedule k1 k2).out ∧ t.buffer .k1 = (keySchedule k1 k2).next ∧
      t.buffer .k2 = (keySchedule k1 k2).k2 := by
  subst hk1 hk2
  exact ⟨_, exec_keysched s, buffer_complete_storeKeyed hm (by decide) (by decide) (length_keySchedule_out _ _)
    (length_keySchedule_next _ _) (length_keySchedule_k2 _ _)⟩

/-- ENCBLK leaves the evolved key of the block in K1 and K2 (R212). -/
theorem exec_encblk_key {s : State} (hm : Memory.wf s.mem = true) (inc : Bool) :
    ∃ t, exec (.encblk inc) s = .next t ∧ t.buffer .k1 = s.blockKeys.k1 ∧ t.buffer .k2 = s.blockKeys.k2 := by
  obtain ⟨hk1, hk2, -⟩ := s.blockKeys_sizes
  obtain ⟨-, hkey⟩ := State.buffer_storeKeyed hm (w := .block) (by decide) (by decide)
    (length_encryptBlock s.blockKeys _ (length_buffer s .block)) hk1 hk2
  refine ⟨_, exec_encblk inc s, ?_⟩
  rwa [buffer_complete, buffer_complete, blockEffect_eq, buffer_bumpIv, buffer_bumpIv]

/-! ### The statements -/

/-- Settles O39: each KEYSCHED reads the key that the one before it left, as the three calls of R209 are chained. -/
theorem threeKeyschedsGiveTheRoundKeysOfABlock : Obligations.ThreeKeyschedsGiveTheRoundKeysOfABlock := by
  intro inc s hm
  have hk1 := State.buffer_store_same hm (w := .k1) ((length_mixIv (s.buffer .k1) s.iv).trans (length_buffer s .k1))
  have hk2 := s.buffer_store_of_ne (w := .k2) (w' := .k1) (by decide)
    ((length_mixIv (s.buffer .k1) s.iv).trans (length_buffer s .k1)).le
  obtain ⟨t1, h1, hm1, hout1, hk1, hk2⟩ := exec_keysched_buffers (State.store_wf hm .k1 _) hk1 hk2
  obtain ⟨t2, h2, hm2, hout2, hk1, hk2⟩ := exec_keysched_buffers hm1 hk1 hk2
  obtain ⟨t3, h3, -, hout3, hk1, hk2⟩ := exec_keysched_buffers hm2 hk1 hk2
  obtain ⟨t, h, hkey1, hkey2⟩ := exec_encblk_key hm inc
  refine ⟨t1, t2, t3, t, h1, h2, h3, h, ?_⟩
  simp only [hout1, hout2, hout3, hk1, hk2, hkey1, hkey2, State.blockKeys, blockKeys, and_self]

/-- Settles O32: the coefficients are the interpolant's through the points 0..31, and the windows are its values. -/
theorem keyScheduleEvaluatesThePolynomialOfItsNodes : Obligations.KeyScheduleEvaluatesThePolynomialOfItsNodes := by
  intro input k2 hin hk2
  refine ⟨keyPolynomial input, length_keyPolynomial input, fun i hi => ?nodes, length_keySchedule_out input k2,
    length_keySchedule_next input k2, by simp [hk2], fun i hi => ?windows, fun i h32 _ => ?kept⟩
  case nodes => rw [polyValue_eq_evalPoly, evalPoly_keyPolynomial hin hi]
  case windows =>
    generalize hsx : shuffle (k2.take 32) (identitySeq 32) 32 = sx
    have hi : i < sx.length := by simpa [← hsx] using hi
    simp only [keySchedule_eq input k2 hsx, polyValue_eq_evalPoly, getD_windowValues _ hi, true_and]
    rw [List.getD_append _ _ _ _ (by rwa [length_windowValues]), getD_windowValues _ hi]
  case kept =>
    obtain ⟨j, rfl⟩ := Nat.exists_eq_add_of_le h32
    have hbyte : ((keySchedule input k2).k2.drop 32).getD j 0x00#8 = (k2.drop 32).getD j 0x00#8 := by
      rw [drop_keySchedule_k2]
    simpa only [List.getD_eq_getElem?_getD, List.getElem?_drop] using hbyte

/-- Settles O33: the polynomial of the zero key state is z, so that its values are the points. -/
theorem keyScheduleOfZeroGivesTheShuffledPoints : Obligations.KeyScheduleOfZeroGivesTheShuffledPoints := by
  intro k2 _
  generalize hsx : shuffle (k2.take 32) (identitySeq 32) 32 = sx
  simp only [keySchedule_eq _ k2 hsx, windowValues_keyPolynomial_zero, and_self]

/-- Settles O31: KEYSCHED's stores are three writes, each at its window's base. -/
theorem keyschedCompletes : Obligations.KeyschedCompletes := by
  intro s
  rw [exec_keysched, complete_storeKeyed]

end Sys2Proof.Machine
end

section
/-! SUPPORT. The rounds by halves and their inverses, the lanes of the IV mix, what ENCBLK and DECBLK leave in the windows, and
the statements of 46_block_cipher.md. -/

namespace Sys2Proof.Machine

/-! ### Rounds -/

theorem encryptRound_eq (k2 l r rk : List Byte) : encryptRound k2 (l, r) rk = (r, feistelHalf k2 l r rk) := rfl

theorem decryptRound_eq (k2 l r rk : List Byte) : decryptRound k2 (l, r) rk = (feistelHalf k2 r l rk, l) := rfl

/-- A second xor with the same bytes undoes the first. -/
theorem xorBytes_cancel {a b : List Byte} (h : a.length ≤ b.length) : xorBytes (xorBytes a b) b = a := by
  refine List.ext_getElem (by simpa using h) fun i _ _ => ?_
  simp [xorBytes]

/-- The same F of the same half is xored twice, so that a decryption round undoes an encryption round (R211). -/
theorem decryptRound_encryptRound (k2 : List Byte) {lr : List Byte × List Byte} (hl : lr.1.length = 32) (rk : List Byte) :
    decryptRound k2 (encryptRound k2 lr rk) rk = lr := by
  rw [encryptRound, decryptRound, xorBytes_cancel (by simp [hl])]

/-- Halves of 32 bytes each, as a block has (R210). -/
def HalvesSized (lr : List Byte × List Byte) : Prop := lr.1.length = 32 ∧ lr.2.length = 32

theorem HalvesSized.encryptRound {lr : List Byte × List Byte} (h : HalvesSized lr) (k2 rk : List Byte) :
    HalvesSized (encryptRound k2 lr rk) :=
  ⟨h.2, by simp [Machine.encryptRound, h.1]⟩

theorem HalvesSized.encryptRounds {lr : List Byte × List Byte} (h : HalvesSized lr) (k2 : List Byte)
    (rks : List (List Byte)) : HalvesSized (rks.foldl (Machine.encryptRound k2) lr) := by
  induction rks generalizing lr with
  | nil => exact h
  | cons rk rks ih => exact ih (h.encryptRound k2 rk)

/-- The decryption rounds with the round keys in reverse undo the encryption rounds, the last one first (R211). -/
theorem decryptRounds_encryptRounds (k2 : List Byte) (rks : List (List Byte)) {lr : List Byte × List Byte}
    (h : HalvesSized lr) : rks.reverse.foldl (decryptRound k2) (rks.foldl (encryptRound k2) lr) = lr := by
  induction rks generalizing lr with
  | nil => rfl
  | cons rk rks ih =>
    simp only [List.reverse_cons, List.foldl_append, List.foldl_cons, List.foldl_nil, ih (h.encryptRound k2 rk),
      decryptRound_encryptRound k2 h.1 rk]

/-! ### Blocks -/

theorem halvesSized_splitBlock {b : List Byte} (hb : b.length = 64) : HalvesSized (splitBlock b) := by
  simp [HalvesSized, splitBlock, hb]

theorem joinBlock_splitBlock (b : List Byte) : joinBlock (splitBlock b) = b := List.take_append_drop 32 b

theorem splitBlock_joinBlock {lr : List Byte × List Byte} (h : HalvesSized lr) : splitBlock (joinBlock lr) = lr := by
  rw [splitBlock, joinBlock, List.take_left' h.1, List.drop_left' h.1]

/-- `Encrypt`'s three rounds by halves: each new half replaces the older of the two (R210). -/
theorem encryptBlock_eq_halves (keys : BlockKeys) (b : List Byte) :
    let r1 := feistelHalf keys.k2 (b.take 32) (b.drop 32) keys.rk0
    let r2 := feistelHalf keys.k2 (b.drop 32) r1 keys.rk1
    encryptBlock keys b = r2 ++ feistelHalf keys.k2 r1 r2 keys.rk2 := by
  simp only [encryptBlock, splitBlock, joinBlock, List.foldl_cons, List.foldl_nil, encryptRound_eq]

/-- `Decrypt`'s three rounds by halves: the new half comes first (R211). -/
theorem decryptBlock_eq_halves (keys : BlockKeys) (b : List Byte) :
    let l1 := feistelHalf keys.k2 (b.drop 32) (b.take 32) keys.rk2
    let l2 := feistelHalf keys.k2 (b.take 32) l1 keys.rk1
    decryptBlock keys b = feistelHalf keys.k2 l1 l2 keys.rk0 ++ l2 := by
  simp only [decryptBlock, splitBlock, joinBlock, List.foldl_cons, List.foldl_nil, decryptRound_eq]

/-- `Decrypt` inverts `Encrypt` under the same keys (R214). -/
theorem decryptBlock_encryptBlock (keys : BlockKeys) {b : List Byte} (hb : b.length = 64) :
    decryptBlock keys (encryptBlock keys b) = b := by
  have hsplit := halvesSized_splitBlock hb
  have hrounds := decryptRounds_encryptRounds keys.k2 [keys.rk0, keys.rk1, keys.rk2] hsplit
  rw [decryptBlock, encryptBlock, splitBlock_joinBlock (hsplit.encryptRounds keys.k2 _)]
  exact (congrArg joinBlock hrounds).trans (joinBlock_splitBlock b)

/-! ### Keys -/

theorem getD_mixIv {k1 : List Byte} {b : Nat} (hb : b < k1.length) (iv : Word) :
    (mixIv k1 iv).getD b 0x00#8 = if b < 4 then k1.getD b 0x00#8 + wordByte iv b else k1.getD b 0x00#8 := by
  rw [List.getD_eq_getElem _ _ (by rwa [length_mixIv]), List.getD_eq_getElem _ _ hb]
  exact List.getElem_mapIdx

/-- The mix adds byte b of IV into lane b below 4 and keeps the other lanes (R209). -/
theorem isIvMix_mixIv {k1 : List Byte} (hlen : k1.length = 32) (iv : Word) : isIvMix k1 (mixIv k1 iv) iv := by
  refine ⟨by rw [length_mixIv, hlen], fun b hb => ?mixed, fun b h4 hb => ?kept⟩
  case mixed => rw [getD_mixIv (by omega), if_pos hb, wordByte]
  case kept => rw [getD_mixIv (by omega), if_neg (by omega)]

theorem areBlockKeys_blockKeys {k1 : List Byte} (hlen : k1.length = 32) (k2 : List Byte) (iv : Word) :
    areBlockKeys k1 k2 iv (blockKeys k1 k2 iv) :=
  ⟨isIvMix_mixIv hlen iv, by simp only [blockKeys, and_self]⟩

/-! ### The commands -/

/-- The whole next state of ENCBLK and DECBLK: three stores, IV by INC, and ERRCODE, BUSY and DONE (R122, R212, R213). -/
theorem complete_blockEffect (keys : BlockKeys) (b : List Byte) (inc : Bool) (s : State) :
    complete (blockEffect keys b inc s) =
      { s with
        mem := Memory.writeBytes
          (Memory.writeBytes (Memory.writeBytes s.mem Window.block.base b) Window.k1.base keys.k1) Window.k2.base keys.k2,
        iv := if inc then s.iv + 1#32 else s.iv,
        errcode := .noError, busy := false, done := true } := by
  cases inc <;> rfl

/-- On a canonical memory ENCBLK and DECBLK leave one, with the new block in BLOCK and the evolved key in K1 and K2. -/
theorem buffer_complete_blockEffect {s : State} (hm : Memory.wf s.mem = true) {b : List Byte} (hb : b.length = 64)
    (inc : Bool) : Memory.wf (complete (blockEffect s.blockKeys b inc s)).mem = true ∧
      (complete (blockEffect s.blockKeys b inc s)).buffer .block = b ∧
      (complete (blockEffect s.blockKeys b inc s)).buffer .k1 = s.blockKeys.k1 ∧
      (complete (blockEffect s.blockKeys b inc s)).buffer .k2 = s.blockKeys.k2 := by
  obtain ⟨hk1, hk2, -⟩ := s.blockKeys_sizes
  simp only [blockEffect_eq, buffer_complete, buffer_bumpIv, complete_mem, State.bumpIv_mem]
  exact ⟨State.storeKeyed_wf hm _ _ _ _, State.buffer_storeKeyed hm (by decide) (by decide) hb hk1 hk2⟩

/-- DECBLK leaves the evolved key of the block in K1 and K2, as ENCBLK does (R213). -/
theorem exec_decblk_key {s : State} (hm : Memory.wf s.mem = true) (inc : Bool) :
    ∃ t, exec (.decblk inc) s = .next t ∧ t.buffer .k1 = s.blockKeys.k1 ∧ t.buffer .k2 = s.blockKeys.k2 := by
  obtain ⟨-, -, hkey⟩ := buffer_complete_blockEffect hm
    (length_decryptBlock s.blockKeys _ (length_buffer s .block)) inc
  exact ⟨_, exec_decblk inc s, hkey⟩

/-- The state with another IV. -/
def State.withIv (s : State) (iv : Word) : State := { s with iv := iv }

@[simp] theorem State.withIv_iv (s : State) (iv : Word) : (s.withIv iv).iv = iv := rfl

@[simp] theorem State.withIv_mem (s : State) (iv : Word) : (s.withIv iv).mem = s.mem := rfl

@[simp] theorem buffer_withIv (s : State) (iv : Word) (w : Window) : (s.withIv iv).buffer w = s.buffer w := rfl

/-- K1, K2 and IV put back to those of s (R214). -/
def State.restoreKey (t s : State) : State :=
  ((t.store .k1 (s.buffer .k1)).store .k2 (s.buffer .k2)).withIv s.iv

theorem State.restoreKey_wf {t : State} (hm : Memory.wf t.mem = true) (s : State) :
    Memory.wf (t.restoreKey s).mem = true := by
  rw [State.restoreKey, State.withIv_mem]
  exact State.store_wf (State.store_wf hm .k1 _) .k2 _

/-- A key put back gives the block the keys it had. -/
theorem State.blockKeys_restoreKey {t : State} (hm : Memory.wf t.mem = true) (s : State) :
    (t.restoreKey s).blockKeys = s.blockKeys := by
  have hk1 : (t.restoreKey s).buffer .k1 = s.buffer .k1 := by
    rw [State.restoreKey, buffer_withIv, State.buffer_store_of_ne _ (by decide) (length_buffer s .k2).le,
      State.buffer_store_same hm (length_buffer s .k1)]
  have hk2 : (t.restoreKey s).buffer .k2 = s.buffer .k2 := by
    rw [State.restoreKey, buffer_withIv, State.buffer_store_same (State.store_wf hm .k1 _) (length_buffer s .k2)]
  have hiv : (t.restoreKey s).iv = s.iv := State.withIv_iv _ _
  rw [State.blockKeys, hk1, hk2, hiv, State.blockKeys]

/-- To put a key back leaves BLOCK as it is. -/
theorem State.buffer_block_restoreKey (t s : State) : (t.restoreKey s).buffer .block = t.buffer .block := by
  rw [State.restoreKey, buffer_withIv, State.buffer_store_of_ne _ (by decide) (length_buffer s .k2).le,
    State.buffer_store_of_ne _ (by decide) (length_buffer s .k1).le]

/-! ### The statements -/

/-- Settles O37: with the key put back DECBLK runs under the keys ENCBLK ran under, and `Decrypt` inverts `Encrypt`. -/
theorem decryptingAfterEncryptingRestoresTheBlock : Obligations.DecryptingAfterEncryptingRestoresTheBlock := by
  intro inc inc' s hm
  have hb : (s.buffer .block).length = 64 := length_buffer s .block
  have hb' : (encryptBlock s.blockKeys (s.buffer .block)).length = 64 := length_encryptBlock _ _ hb
  obtain ⟨hmt, hblock, -⟩ := buffer_complete_blockEffect hm hb' inc
  generalize ht : complete (blockEffect s.blockKeys (encryptBlock s.blockKeys (s.buffer .block)) inc s) = t at hmt hblock
  have hplain : decryptBlock (t.restoreKey s).blockKeys ((t.restoreKey s).buffer .block) = s.buffer .block := by
    rw [State.blockKeys_restoreKey hmt, State.buffer_block_restoreKey, hblock, decryptBlock_encryptBlock _ hb]
  obtain ⟨-, hv, -⟩ := buffer_complete_blockEffect (State.restoreKey_wf hmt s) (hplain ▸ hb) inc'
  exact ⟨t, _, ht ▸ exec_encblk inc s, exec_decblk inc' (t.restoreKey s), hv.trans hplain⟩

/-- Settles O38: both leave the evolved key of their block, which is a function of K1, K2 and IV. -/
theorem encblkAndDecblkEvolveTheKeyAlike : Obligations.EncblkAndDecblkEvolveTheKeyAlike := by
  intro inc inc' s s' hm hm' hk1 hk2 hiv
  have hkeys : s.blockKeys = s'.blockKeys := by rw [State.blockKeys, hk1, hk2, hiv, State.blockKeys]
  obtain ⟨t, h, ht1, ht2⟩ := exec_encblk_key hm inc
  obtain ⟨t', h', ht1', ht2'⟩ := exec_decblk_key hm' inc'
  exact ⟨t, t', h, h', by rw [ht1, ht1', hkeys], by rw [ht2, ht2', hkeys]⟩

/-- Settles O35: the whole effect, the keys of R209, and the three rounds by halves. -/
theorem encblkCompletes : Obligations.EncblkCompletes := by
  refine fun inc s => ⟨?_, areBlockKeys_blockKeys (length_buffer s .k1) _ _, encryptBlock_eq_halves _ _⟩
  rw [exec_encblk, complete_blockEffect, State.blockKeys]

/-- Settles O36: the whole effect, the keys of R209, and the three reverse rounds by halves. -/
theorem decblkCompletes : Obligations.DecblkCompletes := by
  refine fun inc s => ⟨?_, areBlockKeys_blockKeys (length_buffer s .k1) _ _, decryptBlock_eq_halves _ _⟩
  rw [exec_decblk, complete_blockEffect, State.blockKeys]

end Sys2Proof.Machine
end

section
/-! SUPPORT. Every command as a checked one, the error of a word beside its decoding, and the statements of
60_exceptions.md (R232–R234, R240). -/

namespace Sys2Proof.Machine

/-! ### Every command is a checked one -/

/-- The error of the one operand check a command has, if any (R124). -/
def operandCheck : Instr → ErrCode
  | .gflog a => logCheck a
  | .gfexp idx => expCheck idx
  | .interp n | .eval n _ | .shuffle n => countCheck n
  | .nop | .gfadd _ _ | .gfmul _ _ | .gfdiv _ _ | .roundf | .keysched | .encblk _ | .decblk _ => .noError

/-- Every command is its effect under its operand check; without a check, the check that always passes (R123, R124). -/
theorem exec_eq_checked (i : Instr) (s : State) : ∃ effect, exec i s = .next (checked (operandCheck i) effect s) := by
  have unchecked (t : State) : ∃ effect, Host.Outcome.next (φ := Fault) (ρ := Refusal) (complete t) =
      .next (checked .noError effect s) := ⟨fun _ => t, rfl⟩
  cases i with
  | nop | gfadd a b | gfmul a b | gfdiv a b | roundf | keysched | encblk inc | decblk inc => exact unchecked _
  | gflog a | gfexp idx | interp n | eval n x | shuffle n => exact ⟨_, rfl⟩

/-! ### The error of a word -/

theorem countCheck_eq_ite (n : Nat) : countCheck n = if n = 0 ∨ 64 < n then .badCount else .noError := by
  rw [countCheck, Config.maxN, ← ite_not]
  exact if_congr (by omega) rfl rfl

theorem expCheck_eq_ite (idx : Nat) : expCheck idx = if 510 ≤ idx then .expRange else .noError := by
  rw [expCheck, ← ite_not]
  exact if_congr (by omega) rfl rfl

theorem logCheck_fieldA (w : Word) : logCheck (fieldA w) = if fieldN w = 0 then .logZero else .noError := by
  rw [logCheck, ite_not]
  exact if_congr (BitVec.toNat_inj (y := 0x00#8)).symm rfl rfl

theorem errorOf_of_unassigned {w : Word} (h : fieldOp w ∉ assignedOps) : errorOf w = .illegalOp := if_pos h

theorem errorOf_of_reserved {w : Word} (h : fieldOp w ∈ assignedOps) (hres : w &&& reservedMask (fieldOp w) ≠ 0#32) :
    errorOf w = .reservedBits :=
  (if_neg (not_not_intro h)).trans (if_pos hres)

/-- Where OP is assigned and no reserved bit is set, the priority order comes to the operand checks (R233). -/
theorem errorOf_of_assigned {w : Word} (h : fieldOp w ∈ assignedOps) (hres : w &&& reservedMask (fieldOp w) = 0#32) :
    errorOf w =
      if fieldOp w ∈ [0x10#8, 0x11#8, 0x18#8] ∧ (fieldN w = 0 ∨ 64 < fieldN w) then .badCount
      else if fieldOp w = 0x04#8 ∧ fieldN w = 0 then .logZero
      else if fieldOp w = 0x05#8 ∧ 510 ≤ fieldIdx w then .expRange
      else .noError :=
  (if_neg (not_not_intro h)).trans (if_neg (not_not_intro hres))

/-- The operand check a word is due by its OP is the one its row's command makes (R124). -/
theorem errorOf_of_row {w : Word} {row : Word × Word × (Word → Instr)} (hrow : row ∈ opcodeTable)
    (hop : fieldOp row.1 = fieldOp w) (hres : w &&& reservedMask (fieldOp w) = 0#32) :
    errorOf w = operandCheck (row.2.2 w) := by
  have hassigned : fieldOp w ∈ assignedOps := hop ▸ assignedOps_eq_map ▸ List.mem_map_of_mem hrow
  rw [errorOf_of_assigned hassigned hres, ← hop]
  simp only [opcodeTable, List.mem_cons, List.not_mem_nil, or_false] at hrow
  rcases hrow with rfl | rfl | rfl | rfl | rfl | rfl | rfl | rfl | rfl | rfl | rfl | rfl | rfl
  -- NOP, GFADD, GFMUL and GFDIV
  · rfl
  · rfl
  · rfl
  · rfl
  -- GFLOG and GFEXP
  · simp [fieldOp, operandCheck, logCheck_fieldA]
  · simp [fieldOp, operandCheck, expCheck_eq_ite]
  -- INTERP, EVAL and SHUFFLE
  · simp [fieldOp, operandCheck, countCheck_eq_ite]
  · simp [fieldOp, operandCheck, countCheck_eq_ite]
  · simp [fieldOp, operandCheck, countCheck_eq_ite]
  -- ROUNDF, KEYSCHED, ENCBLK and DECBLK
  · rfl
  · rfl
  · rfl
  · rfl

/-! ### The engine's turn of a running core -/

/-- The completion step is an effect under one check, whose error is the priority order's (R122, R233). -/
theorem engineTurn_running_eq_checked {s : State} (h : s.running) :
    ∃ effect, engineTurn s = .next (checked (errorOf s.pending) effect s) := by
  by_cases hop : fieldOp s.pending ∈ assignedOps
  · by_cases hres : s.pending &&& reservedMask (fieldOp s.pending) = 0#32
    · obtain ⟨row, hrow, hrowOp⟩ := exists_row hop
      obtain ⟨effect, hexec⟩ := exec_eq_checked (row.2.2 s.pending) s
      have hdec : decode s.pending = .ok (row.2.2 s.pending) := by rw [decode_of_row hrow hrowOp, if_pos hres]
      refine ⟨effect, ?_⟩
      rw [engineTurn_running h, completionStep_of_decode_ok hdec, hexec, errorOf_of_row hrow hrowOp hres]
    · refine ⟨id, ?_⟩
      rw [errorOf_of_reserved hop hres]
      exact reservedBitCompletesWithReservedBits s h hop hres
  · refine ⟨id, ?_⟩
    rw [errorOf_of_unassigned hop]
    exact unassignedOpcodeCompletesWithIllegalOp s h hop

/-- The completion step sets DONE and leaves IRQ_EN, whatever the word (R122). -/
theorem engineTurn_running_irq {s t : State} (h : s.running) (ht : engineTurn s = .next t) : t.irq = s.irqEn := by
  rw [engineTurn_running h] at ht
  cases hdec : decode s.pending with
  | ok i =>
    rw [completionStep_of_decode_ok hdec] at ht
    obtain ⟨-, hdone, hirqEn, -⟩ := exec_agents ht
    rw [State.irq, hdone, hirqEn, Bool.and_true]
  | error e =>
    rw [completionStep_of_decode_error hdec] at ht
    cases ht
    exact Bool.and_true s.irqEn

/-! ### The statements -/

/-- Settles O9: the completion is an effect under one check, and a check that fails writes nothing else. -/
theorem commandErrorWritesOnlyErrcodeAndStatus : Obligations.CommandErrorWritesOnlyErrcodeAndStatus := by
  intro s t hrun ht hne
  obtain ⟨effect, hturn⟩ := engineTurn_running_eq_checked hrun
  obtain rfl : checked (errorOf s.pending) effect s = t := Host.Outcome.next.inj (hturn.symm.trans ht)
  rw [checked_errcode] at hne
  rw [State.err_iff, checked_error hne]
  exact ⟨rfl, hne, rfl⟩

/-- Settles O10: the completion is an effect under a check whose error is that of the word. -/
theorem completionReportsTheErrorOfThePriorityOrder : Obligations.CompletionReportsTheErrorOfThePriorityOrder := by
  intro s hrun
  obtain ⟨effect, hturn⟩ := engineTurn_running_eq_checked hrun
  exact ⟨_, hturn, checked_errcode _ effect s⟩

/-- Settles O51: a completion sets DONE, an acceptance clears it, the other two leave DONE and IRQ_EN. -/
theorem irqFollowsCompletion : Obligations.IrqFollowsCompletion := by
  refine fun s w => ⟨Bool.and_eq_true_iff, fun hrun => ?_, Bool.and_false _, rfl, rfl⟩
  obtain ⟨t, ht⟩ := engineTurn_answers_next s
  exact ⟨t, ht, engineTurn_running_irq hrun ht⟩

end Sys2Proof.Machine
end

section
/-! SUPPORT. The state the reset input leaves, and the statements of 70_reset_and_hazards.md (R255, R260, R262). -/

namespace Sys2Proof.Machine

/-! ### Reset -/

/-- The state right after reset is itself one the reset input leaves: power-on reset is the same reset (R260). -/
theorem resetCore_reset : resetCore State.reset = State.reset := rfl

/-- What each scalar register reads right after reset (R260). -/
def ScalarReg.resetValue : ScalarReg → Word
  | .id => 0x4B433301#32
  | .status => 0x00000001#32
  | .ctrl | .errcode | .cmd | .result | .iv => 0x00000000#32

theorem reset_scalarValue (r : ScalarReg) : State.reset.scalarValue r = r.resetValue := by cases r <;> decide

/-- The reset input gives every scalar register its reset value, whatever the state was: what it keeps of the state, no scalar
register reads (R260; log 16). -/
@[simp] theorem resetCore_scalarValue (s : State) (r : ScalarReg) : (resetCore s).scalarValue r = r.resetValue :=
  calc (resetCore s).scalarValue r
    _ = State.reset.scalarValue r := by cases r <;> rfl
    _ = r.resetValue := reset_scalarValue r

@[simp] theorem resetCore_irq (s : State) : (resetCore s).irq = false := rfl

theorem step_of_reset_turn {s : State} {rest : List Turn} (h : s.turns = .reset :: rest) :
    step s = .next (resetCore { s with turns := rest }) := by rw [step, h]

/-- With no turn listed an enabled engine moves (R125; log 3). -/
theorem step_of_engineEnabled {s : State} (hturns : s.turns = []) (h : engineEnabled s = true) : step s = engineTurn s := by
  rw [step, hturns]
  exact if_pos h

/-! ### The statements -/

/-- Settles O54: the reset state is one the reset input leaves, and that input gives every register its reset value and lists no
window byte. -/
theorem resetGivesTheResetValues : Obligations.ResetGivesTheResetValues := by
  refine ⟨fun t ht => ?_, fun s turns => step_of_reset_turn⟩
  obtain ⟨s, rfl⟩ : ∃ s, t = resetCore s := ht.elim (fun h => ⟨State.reset, h.trans resetCore_reset.symm⟩) id
  have hreg := resetCore_scalarValue s
  exact ⟨hreg .id, hreg .ctrl, hreg .status, hreg .errcode, hreg .cmd, resetCore_pending s, hreg .result, hreg .iv,
    fun _ => rfl, resetCore_irq s⟩

/-- Settles O55: while READY = 0 the engine's turn is `initialise`; the reset state lists no turn and its engine is enabled, so
that turn is its first step. -/
theorem initialisationIsTheFirstStep : Obligations.InitialisationIsTheFirstStep := by
  refine ⟨fun s hinit => engineTurn_initialising hinit.2, ?_, fun s => engineTurn_idle⟩
  rw [step_of_engineEnabled rfl rfl]
  exact engineTurn_initialising rfl

/-- Settles O56: the reset input establishes the invariant, and the reset state is one it leaves. -/
theorem invariantHoldsAtReset : Obligations.InvariantHoldsAtReset := by
  rw [Obligations.InvariantHoldsAtReset, ← resetCore_reset]
  exact resetCore_inv State.reset

end Sys2Proof.Machine
end
